-- ==== Sys2Proof/Word.lean ====
section
/-! DEFINITION. The widths of the engine's values (00_scope.md R8, R10). -/

namespace Sys2Proof

/-- A register or bus value: 32 bits (R8, R10). -/
abbrev Word := BitVec 32

/-- A byte of a stream, of the key buffer or of the permutation; also the indices I and J (R8, 10_state.md R20). -/
abbrev Byte := BitVec 8

/-- A count field of a command word: 4 bits, unsigned (30_encoding.md R82). -/
abbrev Count := BitVec 4

/-- The word index `addr[11:2]` of the slave port: 10 bits (20_memory.md R51). -/
abbrev WordIndex := BitVec 10

/-- The 64-bit value of an eight-byte buffer, `BUF0 ‖ BUF1` (10_state.md R24). -/
abbrev Block := BitVec 64

/-- 256 bytes: the key buffer and the permutation (10_state.md R20). -/
abbrev Bytes256 := Vector Byte 256

end Sys2Proof
end

