-- ==== Sys2Proof/Config.lean ====
section
/-! DEFINITION. What the platform fixes and the spec leaves open (00_scope.md R9). Each is a constant without a body,
so that nothing can be proved of its value. -/

namespace Sys2Proof

/-- BASE divided by 4096: `BASE` is a multiple of 4096 and otherwise open (00_scope.md R9, 93 U2). Log entry 4. -/
opaque Config.baseFrame : Nat

/-- RESET_ABORT_RESPONSE: what the host's bus sees for a `CMD` write cut short by reset, any value
(70_reset_and_hazards.md R191, 93 U4). Applied to the index of the transaction. Log entry 2. -/
opaque Config.resetAbortResponse : Nat → Word

/-- The 256-bit one-way hash of key derivation, which the source does not name (60_exceptions.md R178, 93 U11), of the
UTF-8 bytes of the passphrase. Host software. Log entry 7. -/
opaque Config.passphraseHash : List Byte → Vector Byte 32

end Sys2Proof
end

