-- ==== Sys2Proof/Syntax.lean ====
section
/-! DEFINITION. The six commands of the opcode map (30_encoding.md R83), one constructor per row of the opcode table. -/

namespace Sys2Proof

/-- A command. `n` is the byte count N of a stream command and `k` the pad byte count K of VN.XOR, each the 4-bit
field of the command word as it stands (30_encoding.md R81, R82). -/
inductive Instr where
  /-- TEA.ENC: encrypt the block (40_tea.md R102). -/
  | teaEnc
  /-- TEA.DEC: decrypt the block (40_tea.md R104). -/
  | teaDec
  /-- RC4.KSA: schedule the key (41_rc4.md R122). -/
  | rc4Ksa
  /-- RC4.PRGA N: the next N keystream bytes into DATA (41_rc4.md R123). -/
  | rc4Prga (n : Count)
  /-- RC4.XOR N: XOR the next N keystream bytes into DATA (41_rc4.md R124). -/
  | rc4Xor (n : Count)
  /-- VN.XOR N, K: XOR N pad bytes into DATA (42_vernam.md R141). -/
  | vnXor (n k : Count)
  deriving DecidableEq, Repr

end Sys2Proof
end

