-- ==== Sys2Proof/WellFormed.lean ====
section
/-! DEFINITION. Which operands a command may carry (30_encoding.md R83, R84). -/

namespace Sys2Proof

/-- N of a stream command is 1 to 8 (R83). -/
def streamCountOk (n : Count) : Bool := 1 ≤ n.toNat && n.toNat ≤ 8

/-- K of VN.XOR is 0 to 8 (R83). -/
def padCountOk (k : Count) : Bool := k.toNat ≤ 8

/-- The command's counts lie in the legal ranges of its row (R83, R84). -/
def Instr.wellFormed : Instr → Bool
  | .teaEnc => true
  | .teaDec => true
  | .rc4Ksa => true
  | .rc4Prga n => streamCountOk n
  | .rc4Xor n => streamCountOk n
  | .vnXor n k => streamCountOk n && padCountOk k

end Sys2Proof
end

