-- ==== Sys2Proof/Decode.lean ====
section
/-! DEFINITION. Decoding and encoding of the command word CMD32 (30_encoding.md R80 to R85). -/

namespace Sys2Proof

/-- Why a word is no command. The engine reports every one of them as IllegalCommand (R84). -/
inductive DecodeError where
  /-- RSV, bits 31:16, is not zero. -/
  | reservedBits
  /-- OP, bits 7:0, is none of the six opcodes. -/
  | reservedOpcode
  /-- N, bits 11:8, is outside the row's legal range. -/
  | countField
  /-- K, bits 15:12, is outside the row's legal range. -/
  | padField
  deriving DecidableEq, Repr

/-- OP, bits 7:0 (R81). -/
def opField (v : Word) : Byte := v.extractLsb' 0 8

/-- N, bits 11:8 (R81). -/
def nField (v : Word) : Count := v.extractLsb' 8 4

/-- K, bits 15:12 (R81). -/
def kField (v : Word) : Count := v.extractLsb' 12 4

/-- RSV, bits 31:16 (R81). -/
def rsvField (v : Word) : BitVec 16 := v.extractLsb' 16 16

/-- A row whose N and K must both be 0 (R83). -/
def decodePlain (i : Instr) (n k : Count) : Except DecodeError Instr :=
  if n ≠ 0 then .error .countField else if k ≠ 0 then .error .padField else .ok i

/-- A stream row whose K must be 0 (R83). -/
def decodeStream (f : Count → Instr) (n k : Count) : Except DecodeError Instr :=
  if !streamCountOk n then .error .countField else if k ≠ 0 then .error .padField else .ok (f n)

/-- The VN.XOR row (R83). -/
def decodeVernam (n k : Count) : Except DecodeError Instr :=
  if !streamCountOk n then .error .countField else if !padCountOk k then .error .padField else .ok (.vnXor n k)

/-- The opcode map (R83). -/
def decodeOp (op : Byte) (n k : Count) : Except DecodeError Instr :=
  if op = 0x01 then decodePlain .teaEnc n k
  else if op = 0x02 then decodePlain .teaDec n k
  else if op = 0x10 then decodePlain .rc4Ksa n k
  else if op = 0x11 then decodeStream .rc4Prga n k
  else if op = 0x12 then decodeStream .rc4Xor n k
  else if op = 0x20 then decodeVernam n k
  else .error .reservedOpcode

/-- The total decoder: the six rows, or the reason why the word is illegal (R84). -/
def decode (v : Word) : Except DecodeError Instr :=
  if rsvField v ≠ 0 then .error .reservedBits else decodeOp (opField v) (nField v) (kField v)

/-- RSV ‖ K ‖ N ‖ OP with RSV = 0 (R81). -/
def encodeFields (op : Byte) (n k : Count) : Word := 0#16 ++ k ++ n ++ op

/-- OP of a command (R83). -/
def Instr.opcode : Instr → Byte
  | .teaEnc => 0x01
  | .teaDec => 0x02
  | .rc4Ksa => 0x10
  | .rc4Prga _ => 0x11
  | .rc4Xor _ => 0x12
  | .vnXor _ _ => 0x20

/-- The command word of a command (R81, R83). -/
def encode (i : Instr) : Word :=
  match i with
  | .teaEnc => encodeFields i.opcode 0 0
  | .teaDec => encodeFields i.opcode 0 0
  | .rc4Ksa => encodeFields i.opcode 0 0
  | .rc4Prga n => encodeFields i.opcode n 0
  | .rc4Xor n => encodeFields i.opcode n 0
  | .vnXor n k => encodeFields i.opcode n k

/-- The table's word of `nbits` bits as a command word: a command word is one 32-bit word (R85), so the bits above
`nbits` are 0 and a value that does not fit 32 bits is no word. -/
def tableWord (nbits w : Nat) : Option Word :=
  if w % 2 ^ nbits < 2 ^ 32 then some (BitVec.ofNat 32 (w % 2 ^ nbits)) else none

/-- What the decoder reads from a word of the opcode table. -/
def decodeTableWord (nbits w : Nat) : Option Instr :=
  match tableWord nbits w with
  | some v => (decode v).toOption
  | none => none

end Sys2Proof
end

