-- ==== Sys2Proof/Machine/State.lean ====
section
/-! DEFINITION. The state of the engine (10_state.md R20), the host's coming events, the reasons a step can stop, and
the state after reset (10_state.md R36). -/

namespace Sys2Proof.Machine

/-- Why the model stops with a fault. No command of the engine raises one: the engine's errors are its sticky latch
(60_exceptions.md R152). -/
inductive Fault where
  /-- Raised by the bus bridge for a host CPU access whose address lies outside the engine's one address space, the
  window at BASE (20_memory.md R50). SAFE: the model stops where the platform would go on with another device. -/
  | outsideWindow
  deriving DecidableEq, Repr

/-- Why the model refuses to go on. -/
inductive Refusal where
  /-- An instruction without a meaning in the model, by its mnemonic. SAFE. No arm raises it. -/
  | notModelled (mnemonic : String)
  /-- Raised by the bus bridge for a host CPU access into the window that is not one aligned 32-bit word: the open
  parameter BRIDGE_SUBWORD, which the spec tells a model of the host to refuse (20_memory.md R56, 93 U1). SAFE. -/
  | bridgeSubword
  deriving DecidableEq, Repr

/-- The engine's errors (60_exceptions.md R151). -/
inductive EngineError where
  /-- A command word outside the opcode map (30_encoding.md R84). -/
  | illegalCommand
  /-- RC4.KSA with RC4_KLEN = 0 (41_rc4.md R122). -/
  | emptyKey
  /-- VN.XOR with K < N (42_vernam.md R141). -/
  | keyTooShort
  /-- RC4.PRGA or RC4.XOR with RC4RDY = 0 (41_rc4.md R123). -/
  | rc4NotKeyed
  deriving DecidableEq, Repr

/-- One transaction on the slave port: one aligned 32-bit word at a word index (20_memory.md R51, R52, R56). -/
inductive Transaction where
  /-- `MemRead(4*w, 4)`. -/
  | read (w : WordIndex)
  /-- `MemWrite(4*w, 4, v)`. -/
  | write (w : WordIndex) (v : Word)
  deriving DecidableEq, Repr

/-- What the outside world does next. -/
inductive HostEvent where
  /-- A transaction on the port (20_memory.md R52). -/
  | bus (t : Transaction)
  /-- A host CPU's read of `size` bytes at a byte address of its own space, through the bridge (20_memory.md R50, R56). -/
  | cpuRead (addr size : Nat)
  /-- A host CPU's write of `size` bytes, through the bridge (20_memory.md R50, R56). -/
  | cpuWrite (addr size : Nat) (v : Word)
  /-- The reset input, between two transactions (70_reset_and_hazards.md R190). -/
  | reset
  /-- A `CMD` write of `v` that reset cuts short while it is stalled (70_reset_and_hazards.md R191). -/
  | resetDuringCommand (v : Word)
  deriving DecidableEq, Repr

/-- What a finished transaction answered the host. -/
inductive Response where
  /-- The value a read returned (20_memory.md R52). -/
  | value (v : Word)
  /-- A write completed normally; an error or a drop does not show here (60_exceptions.md R156). -/
  | done
  /-- The platform's answer to a write cut by reset: RESET_ABORT_RESPONSE (70_reset_and_hazards.md R191). -/
  | aborted (r : Word)
  deriving DecidableEq, Repr

/-- The engine's registers as 10_state.md R20 lists them, then the host's side: the events to come, next first, and the
responses so far, newest first (R30, 70_reset_and_hazards.md R198; log entry 1). -/
structure State where
  data0 : Word
  data1 : Word
  pad0 : Word
  pad1 : Word
  tkey0 : Word
  tkey1 : Word
  tkey2 : Word
  tkey3 : Word
  klen : Word
  key : Bytes256
  sbox : Bytes256
  i : Byte
  j : Byte
  err : Bool
  drop : Bool
  rc4rdy : Bool
  ecode : BitVec 4
  pending : List HostEvent
  responses : List Response
  deriving DecidableEq, Repr

/-- The index of the current transaction in the host's list (10_state.md R30): how many have finished. -/
def State.position (s : State) : Nat := s.responses.length

/-- The identity permutation, `S[k] = k` (10_state.md R36, 41_rc4.md R120). -/
def identityBox : Bytes256 := ⟨⟨(List.range 256).map (BitVec.ofNat 8)⟩, by simp⟩

/-- The state right after reset (10_state.md R36), with a host that has issued nothing yet. -/
def State.reset : State where
  data0 := 0
  data1 := 0
  pad0 := 0
  pad1 := 0
  tkey0 := 0
  tkey1 := 0
  tkey2 := 0
  tkey3 := 0
  klen := 0
  key := Vector.replicate 256 0
  sbox := identityBox
  i := 0
  j := 0
  err := false
  drop := false
  rc4rdy := false
  ecode := 0
  pending := []
  responses := []

end Sys2Proof.Machine
end

