-- ==== Sys2Proof/Machine/Ops.lean ====
section
/-! DEFINITION. The operations every part of the engine shares: the outcome's sequencing, the bounded loop, access to
the 256-byte arrays, raising an error and ending the error state, the drop rule, and reset. -/

namespace Sys2Proof.Machine

/-- An outcome of the model whose next value may be more than a state. -/
abbrev Result (α : Type) := Host.Outcome α Fault Refusal

/-- Go on from a next value, keep a stop. -/
def onNext {α β : Type} (r : Result α) (f : α → Result β) : Result β :=
  match r with
  | .next a => f a
  | .fault e => .fault e
  | .refused e => .refused e

/-- `for b in 0 .. n-1`, in that order, each iteration seeing what the one before left (00_scope.md R12). -/
def forUpTo {α : Type} : Nat → (Nat → α → α) → α → α
  | 0, _, a => a
  | n + 1, f, a => f n (forUpTo n f a)

/-- `A[x]` of a 256-byte array; the 8-bit index is taken modulo 256 (00_scope.md R11, R12). -/
def byteAt (a : Bytes256) (x : Byte) : Byte := a[x.toNat]'x.isLt

/-- `A[x] <- v`. -/
def setByteAt (a : Bytes256) (x v : Byte) : Bytes256 := a.set x.toNat v x.isLt

/-- `swap(A[x], A[y])`, both exchanged at once (00_scope.md R12). -/
def swapBytes (a : Bytes256) (x y : Byte) : Bytes256 := a.swap x.toNat y.toNat x.isLt y.isLt

/-- The code of an error, the value of STATUS.ECODE (60_exceptions.md R151). -/
def EngineError.code : EngineError → BitVec 4
  | .illegalCommand => 1
  | .emptyKey => 2
  | .keyTooShort => 3
  | .rc4NotKeyed => 4

/-- Raising an error: ERR and ECODE are written and nothing else (60_exceptions.md R152, 00_scope.md R14). -/
def raiseError (e : EngineError) (s : State) : State := { s with err := true, ecode := e.code }

/-- Return from an error: ERR, DROP and ECODE become 0 and nothing else changes (60_exceptions.md R157, 10_state.md R33). -/
def clearError (s : State) : State := { s with err := false, drop := false, ecode := 0 }

/-- A dropped command: DROP is set and nothing else changes (60_exceptions.md R155). -/
def dropCommand (s : State) : State := { s with drop := true }

/-- Issue a command: it is dropped while ERR = 1, else its body runs (30_encoding.md R80, 60_exceptions.md R154). -/
def issue (body : State → State) (s : State) : Result State :=
  if s.err then .next (dropCommand s) else .next (body s)

/-- A command with one check before any write: raise `e` where it fails, else run the body (00_scope.md R14). -/
def checked (ok : Bool) (e : EngineError) (body : State → State) (s : State) : State :=
  if ok then body s else raiseError e s

/-- The reset of the engine: every register of 10_state.md R20 at its reset value; the host's side is not the engine's
and stays (70_reset_and_hazards.md R190). -/
def resetEngine (s : State) : State :=
  { State.reset with pending := s.pending, responses := s.responses }

end Sys2Proof.Machine
end

