-- ==== Sys2Proof/Machine/Operands.lean ====
section
/-! DEFINITION. The operand forms: the byte view of DATA and PAD (10_state.md R24) and the byte order inside a word
(10_state.md R27, R29; 20_memory.md R55). -/

namespace Sys2Proof.Machine

/-- `byte(BUF, b) = BUF[63-8b : 56-8b]` for b in 0 to 7 (10_state.md R24). -/
def getByte (buf : Block) (b : Nat) : Byte := buf.extractLsb' (56 - 8 * b) 8

/-- `byte(BUF, b) <- x`: those 8 bits are replaced, the other 56 stay (10_state.md R24). -/
def setByte (buf : Block) (b : Nat) (x : Byte) : Block :=
  (buf &&& ~~~(0xFF#64 <<< (56 - 8 * b))) ||| (x.setWidth 64 <<< (56 - 8 * b))

/-- DATA0 ‖ DATA1 (10_state.md R24). -/
def State.data (s : State) : Block := s.data0 ++ s.data1

/-- PAD0 ‖ PAD1 (10_state.md R24). -/
def State.pad (s : State) : Block := s.pad0 ++ s.pad1

/-- Write DATA0 ‖ DATA1. -/
def State.setData (s : State) (d : Block) : State :=
  { s with data0 := d.extractLsb' 32 32, data1 := d.extractLsb' 0 32 }

/-- Byte m of a word, m in 0 to 3: bits `31-8m : 24-8m` (10_state.md R27). -/
def wordByte (v : Word) (m : Nat) : Byte := v.extractLsb' (24 - 8 * m) 8

/-- Index `4w + m` of a 256-byte array, for word w in 0 to 63 and m in 0 to 3 (10_state.md R27, R29). -/
def byteIndex (w : BitVec 6) (m : Nat) : Byte := BitVec.ofNat 8 (4 * w.toNat + m)

/-- Word w of a 256-byte array: `A[4w] ‖ A[4w+1] ‖ A[4w+2] ‖ A[4w+3]` (10_state.md R27, R29). -/
def arrayWord (a : Bytes256) (w : BitVec 6) : Word :=
  byteAt a (byteIndex w 0) ++ byteAt a (byteIndex w 1) ++ byteAt a (byteIndex w 2) ++ byteAt a (byteIndex w 3)

/-- Write word w of a 256-byte array (20_memory.md R52, the RC4_KEY case). -/
def setArrayWord (a : Bytes256) (w : BitVec 6) (v : Word) : Bytes256 :=
  forUpTo 4 (fun m b => setByteAt b (byteIndex w m) (wordByte v m)) a

end Sys2Proof.Machine
end

