-- ==== Sys2Proof/Machine/Flags.lean ====
section
/-! DEFINITION. The STATUS register and RC4_IJ as words, and the one write of STATUS (10_state.md R31, R33). -/

namespace Sys2Proof.Machine

/-- A status bit as a bit vector. -/
def bit (b : Bool) : BitVec 1 := BitVec.ofBool b

/-- STATUS as it reads: `ECODE ‖ 0 ‖ RC4RDY ‖ DROP ‖ ERR`, zero above (10_state.md R33, 20_memory.md R52). -/
def statusWord (s : State) : Word :=
  (s.ecode ++ 0#1 ++ bit s.rc4rdy ++ bit s.drop ++ bit s.err : BitVec 8).setWidth 32

/-- RC4_IJ as it reads: J in bits 15:8, I in bits 7:0, zero above (10_state.md R31). -/
def ijWord (s : State) : Word := (s.j ++ s.i : BitVec 16).setWidth 32

/-- A write of `v` to STATUS: bit 0 set ends the error state, any other bit is ignored (10_state.md R33). -/
def writeStatus (v : Word) (s : State) : State := if v.getLsbD 0 then clearError s else s

end Sys2Proof.Machine
end

