-- ==== Sys2Proof/Machine/Rc4.lean ====
section
/-! DEFINITION. RC4.KSA, RC4.PRGA and RC4.XOR (41_rc4.md). -/

namespace Sys2Proof.Machine

/-- What the key schedule carries: the permutation and its own `j`, which is no state of the engine (R120, 10_state.md R21). -/
structure KsaLocals where
  box : Bytes256
  j : Byte
  deriving DecidableEq, Repr

/-- Iteration `i` of the key schedule: `j <- j + S[i] + KEY[i mod KLEN]`, then swap S[i] and S[j] (R120). -/
def ksaRound (key : Bytes256) (klen : Nat) (i : Nat) (t : KsaLocals) : KsaLocals :=
  let j := t.j + byteAt t.box (BitVec.ofNat 8 i) + byteAt key (BitVec.ofNat 8 (i % klen))
  { box := swapBytes t.box (BitVec.ofNat 8 i) j, j }

/-- Ksa(): the schedule from the identity with `j = 0` (R120). -/
def ksa (key : Bytes256) (klen : Nat) : Bytes256 :=
  (forUpTo 256 (ksaRound key klen) { box := identityBox, j := 0 }).box

/-- What Rc4Step() does to I, J and S (R121). -/
def rc4Advance (s : State) : State :=
  let i := s.i + 1
  let j := s.j + byteAt s.sbox i
  { s with i, j, sbox := swapBytes s.sbox i j }

/-- The byte Rc4Step() returns, read after the swap: `S[S[I] + S[J]]` (R121). -/
def rc4Output (s : State) : Byte := byteAt s.sbox (byteAt s.sbox s.i + byteAt s.sbox s.j)

/-- RC4_KSA() after its check (R122). -/
def rc4KsaBody (s : State) : State :=
  { s with sbox := ksa s.key s.klen.toNat, i := 0, j := 0, rc4rdy := true }

/-- The loop body of RC4.PRGA: `byte(DATA, b) <- Rc4Step()` (R123). -/
def rc4PrgaByte (b : Nat) (s : State) : State :=
  let t := rc4Advance s
  t.setData (setByte t.data b (rc4Output t))

/-- The loop body of RC4.XOR: `byte(DATA, b) <- byte(DATA, b) XOR Rc4Step()` (R124). -/
def rc4XorByte (b : Nat) (s : State) : State :=
  let t := rc4Advance s
  t.setData (setByte t.data b (getByte t.data b ^^^ rc4Output t))

/-- RC4.KSA (R122): EmptyKey when RC4_KLEN = 0. -/
def execRc4Ksa (s : State) : Result State := issue (fun t => checked (t.klen != 0) .emptyKey rc4KsaBody t) s

/-- RC4.PRGA N (R123): IllegalCommand when N is not 1 to 8, then Rc4NotKeyed when RC4RDY = 0. -/
def execRc4Prga (n : Count) (s : State) : Result State :=
  issue (checked (streamCountOk n) .illegalCommand fun t =>
    checked t.rc4rdy .rc4NotKeyed (forUpTo n.toNat rc4PrgaByte) t) s

/-- RC4.XOR N (R124): IllegalCommand when N is not 1 to 8, then Rc4NotKeyed when RC4RDY = 0. -/
def execRc4Xor (n : Count) (s : State) : Result State :=
  issue (checked (streamCountOk n) .illegalCommand fun t =>
    checked t.rc4rdy .rc4NotKeyed (forUpTo n.toNat rc4XorByte) t) s

end Sys2Proof.Machine
end

