-- ==== Sys2Proof/Machine/Tea.lean ====
section
/-! DEFINITION. TEA.ENC and TEA.DEC (40_tea.md). -/

namespace Sys2Proof.Machine

/-- DELTA (40_tea.md R103). -/
def teaDelta : Word := 0x9E3779B9

/-- The start value of `sum` in decryption, (DELTA * 32) mod 2^32 (R103). -/
def teaSum32 : Word := 0xC6EF3720

/-- The round count (R103). -/
def teaRounds : Nat := 32

/-- The round function F: logical shifts, additions modulo 2^32 (R101). -/
def teaF (v sum ka kb : Word) : Word := ((v <<< 4) + ka) ^^^ (v + sum) ^^^ ((v >>> 5) + kb)

/-- What a TEA command carries from round to round and keeps nowhere (10_state.md R21). -/
structure TeaLocals where
  v0 : Word
  v1 : Word
  sum : Word
  deriving DecidableEq, Repr

/-- One round of encryption: `sum` first, then v0, then v1 with the new v0 (R102). -/
def teaEncRound (k0 k1 k2 k3 : Word) (t : TeaLocals) : TeaLocals :=
  let sum := t.sum + teaDelta
  let v0 := t.v0 + teaF t.v1 sum k0 k1
  let v1 := t.v1 + teaF v0 sum k2 k3
  { v0, v1, sum }

/-- One round of decryption: v1 first, then v0 with the new v1, then `sum` (R104). -/
def teaDecRound (k0 k1 k2 k3 : Word) (t : TeaLocals) : TeaLocals :=
  let v1 := t.v1 - teaF t.v0 t.sum k2 k3
  let v0 := t.v0 - teaF v1 t.sum k0 k1
  { v0, v1, sum := t.sum - teaDelta }

/-- The 32 rounds of TEA_ENC() from `sum = 0` (R102). -/
def teaEncrypt (s : State) : TeaLocals :=
  forUpTo teaRounds (fun _ => teaEncRound s.tkey0 s.tkey1 s.tkey2 s.tkey3)
    { v0 := s.data0, v1 := s.data1, sum := 0 }

/-- The 32 rounds of TEA_DEC() from `sum = SUM32` (R104). -/
def teaDecrypt (s : State) : TeaLocals :=
  forUpTo teaRounds (fun _ => teaDecRound s.tkey0 s.tkey1 s.tkey2 s.tkey3)
    { v0 := s.data0, v1 := s.data1, sum := teaSum32 }

/-- TEA_ENC() (R102). -/
def teaEncBody (s : State) : State :=
  { s with data0 := (teaEncrypt s).v0, data1 := (teaEncrypt s).v1 }

/-- TEA_DEC() (R104). -/
def teaDecBody (s : State) : State :=
  { s with data0 := (teaDecrypt s).v0, data1 := (teaDecrypt s).v1 }

/-- TEA.ENC (R102): no error of its own. -/
def execTeaEnc (s : State) : Result State := issue teaEncBody s

/-- TEA.DEC (R104): no error of its own. -/
def execTeaDec (s : State) : Result State := issue teaDecBody s

end Sys2Proof.Machine
end

