-- ==== Sys2Proof/Machine/Vernam.lean ====
section
/-! DEFINITION. VN.XOR (42_vernam.md). -/

namespace Sys2Proof.Machine

/-- The loop body of VN.XOR: `byte(DATA, b) <- byte(DATA, b) XOR byte(PAD, b)` (R141). -/
def vnXorByte (b : Nat) (s : State) : State :=
  s.setData (setByte s.data b (getByte s.data b ^^^ getByte s.pad b))

/-- VN.XOR N, K (R141): IllegalCommand when N is not 1 to 8 or K above 8, then KeyTooShort when K < N. -/
def execVnXor (n k : Count) (s : State) : Result State :=
  issue (checked (streamCountOk n && padCountOk k) .illegalCommand
    (checked (n.toNat ≤ k.toNat) .keyTooShort (forUpTo n.toNat vnXorByte))) s

end Sys2Proof.Machine
end

