-- ==== Sys2Proof/Machine/Dispatch.lean ====
section
/-! DEFINITION. The command's meaning, one arm per row of the opcode map (30_encoding.md R80, R83). -/

namespace Sys2Proof.Machine

def exec (i : Instr) (s : State) : Host.Outcome State Fault Refusal :=
  match i with
  | .teaEnc => Sys2Proof.Machine.execTeaEnc s
  | .teaDec => Sys2Proof.Machine.execTeaDec s
  | .rc4Ksa => Sys2Proof.Machine.execRc4Ksa s
  | .rc4Prga n => Sys2Proof.Machine.execRc4Prga n s
  | .rc4Xor n => Sys2Proof.Machine.execRc4Xor n s
  | .vnXor n k => Sys2Proof.Machine.execVnXor n k s

end Sys2Proof.Machine
end

