-- ==== Sys2Proof/Machine/Bus.lean ====
section
/-! DEFINITION. The register window and its transactions (20_memory.md R50 to R57), the command port
(30_encoding.md R80), the bus bridge's part (R56) and what each event of the outside world does. -/

namespace Sys2Proof.Machine

/-- The registers of the window (20_memory.md R53). -/
inductive Reg where
  | cmd
  | status
  | data0
  | data1
  | pad0
  | pad1
  | tkey0
  | tkey1
  | tkey2
  | tkey3
  | rc4Klen
  | rc4Ij
  /-- RC4_KEYw. -/
  | rc4Key (w : BitVec 6)
  /-- RC4_Sw. -/
  | rc4S (w : BitVec 6)
  /-- An offset that names no register (R54). -/
  | reserved
  deriving DecidableEq, Repr

/-- The byte offset of a word index in the window (R50, R51). -/
def byteOffset (w : WordIndex) : Nat := 4 * w.toNat

/-- The register at a word index (R52, R53). -/
def regAt (w : WordIndex) : Reg :=
  let off := byteOffset w
  if off = 0x000 then .cmd
  else if off = 0x004 then .status
  else if off = 0x008 then .data0
  else if off = 0x00C then .data1
  else if off = 0x010 then .pad0
  else if off = 0x014 then .pad1
  else if off = 0x018 then .tkey0
  else if off = 0x01C then .tkey1
  else if off = 0x020 then .tkey2
  else if off = 0x024 then .tkey3
  else if off = 0x028 then .rc4Klen
  else if off = 0x02C then .rc4Ij
  else if 0x100 ≤ off ∧ off < 0x200 then .rc4Key (BitVec.ofNat 6 ((off - 0x100) / 4))
  else if 0x200 ≤ off ∧ off < 0x300 then .rc4S (BitVec.ofNat 6 ((off - 0x200) / 4))
  else .reserved

/-- The value a read of a register returns (R52). -/
def readReg (r : Reg) (s : State) : Word :=
  match r with
  | .cmd => 0
  | .status => statusWord s
  | .data0 => s.data0
  | .data1 => s.data1
  | .pad0 => s.pad0
  | .pad1 => s.pad1
  | .tkey0 => s.tkey0
  | .tkey1 => s.tkey1
  | .tkey2 => s.tkey2
  | .tkey3 => s.tkey3
  | .rc4Klen => s.klen
  | .rc4Ij => ijWord s
  | .rc4Key w => arrayWord s.key w
  | .rc4S w => arrayWord s.sbox w
  | .reserved => 0

/-- `MemRead(4*w, 4)`: the value returned; the state stays (R52, R57). -/
def memRead (w : WordIndex) (s : State) : Word := readReg (regAt w) s

/-- A command word outside the opcode map (30_encoding.md R84): IllegalCommand, or dropped while ERR = 1. -/
def executeIllegal (s : State) : Result State := issue (raiseError .illegalCommand) s

/-- `execute(v)` (30_encoding.md R80). The drop check that R80 writes before decoding stands in `issue`, which every
command and every illegal word goes through; decoding changes no state, so the order is the same. -/
def execute (v : Word) (s : State) : Result State :=
  match decode v with
  | .ok i => exec i s
  | .error _ => executeIllegal s

/-- What a write of `v` to a register does (R52). -/
def writeReg (r : Reg) (v : Word) (s : State) : Result State :=
  match r with
  | .cmd => execute v s
  | .status => .next (writeStatus v s)
  | .data0 => .next { s with data0 := v }
  | .data1 => .next { s with data1 := v }
  | .pad0 => .next { s with pad0 := v }
  | .pad1 => .next { s with pad1 := v }
  | .tkey0 => .next { s with tkey0 := v }
  | .tkey1 => .next { s with tkey1 := v }
  | .tkey2 => .next { s with tkey2 := v }
  | .tkey3 => .next { s with tkey3 := v }
  | .rc4Klen => .next { s with klen := v }
  | .rc4Ij => .next s
  | .rc4Key w => .next { s with key := setArrayWord s.key w v }
  | .rc4S _ => .next s
  | .reserved => .next s

/-- `MemWrite(4*w, 4, v)` (R52). -/
def memWrite (w : WordIndex) (v : Word) (s : State) : Result State := writeReg (regAt w) v s

/-- The host gets the answer of a finished transaction. -/
def respond (r : Response) (s : State) : State := { s with responses := r :: s.responses }

/-- One transaction, a single atomic step (R52, R57): its effect, then the host's answer. -/
def transact (t : Transaction) (s : State) : Result State :=
  match t with
  | .read w => .next (respond (.value (memRead w s)) s)
  | .write w v => onNext (memWrite w v s) fun u => .next (respond .done u)

/-- The byte address of the window, `BASE` (00_scope.md R9). -/
def windowBase : Nat := 4096 * Config.baseFrame

/-- The bus bridge: which word of the window a host CPU's access of `size` bytes at `addr` reaches. Only one aligned
32-bit word can be expressed on the port; anything else in the window is the open parameter BRIDGE_SUBWORD and is
refused; an address outside the window is not the engine's (20_memory.md R50, R56). DESIGN CHOICE (log entry 4): the
spec does not say whether an access that begins outside the window and reaches into it, or the other way round, is one
to the window; the address of its first byte decides. -/
def bridge (addr size : Nat) : Result WordIndex :=
  if addr < windowBase ∨ windowBase + 4096 ≤ addr then .fault .outsideWindow
  else if size = 4 ∧ addr % 4 = 0 then .next (BitVec.ofNat 10 ((addr - windowBase) / 4))
  else .refused .bridgeSubword

/-- What one event of the outside world does. -/
def perform (e : HostEvent) (s : State) : Result State :=
  match e with
  | .bus t => transact t s
  | .cpuRead addr size => onNext (bridge addr size) fun w => transact (.read w) s
  | .cpuWrite addr size v => onNext (bridge addr size) fun w => transact (.write w v) s
  | .reset => .next (resetEngine s)
  | .resetDuringCommand _ => .next (respond (.aborted (Config.resetAbortResponse s.position)) (resetEngine s))

/-- The next event of the host's list, if there is one; with none the engine is idle and nothing changes
(70_reset_and_hazards.md R193, 60_exceptions.md R169). -/
def runNext (s : State) : Result State :=
  match s.pending with
  | [] => .next s
  | e :: rest => perform e { s with pending := rest }

/-- The word index of CMD (20_memory.md R53). -/
def cmdIndex : WordIndex := 0

/-- The host's next event becomes a write of command word `v` to CMD. -/
def placeCommand (v : Word) (s : State) : State :=
  { s with pending := .bus (.write cmdIndex v) :: s.pending }

end Sys2Proof.Machine
end

