-- ==== Sys2Proof/Machine/Step.lean ====
section
/-! DEFINITION. One step: the host's next event (10_state.md R30, 20_memory.md R52, 92 D2). -/

namespace Sys2Proof.Machine

/-- One step of the machine. -/
def step (s : State) : Host.Outcome State Fault Refusal := runNext s

/-- `s` with a word of the opcode table as the host's next write to CMD: the engine fetches nothing, a command comes to
run by that write (10_state.md R30, R34; log entry 1). A word that fits no command word leaves the state as it is. -/
def State.withFetchWord (s : State) (nbits w : Nat) : State :=
  match tableWord nbits w with
  | some v => placeCommand v s
  | none => s

end Sys2Proof.Machine
end

