-- ==== Sys2Proof/Machine/Script.lean ====
section
/-! DEFINITION. Host scripts: the assembler statements and the pseudo-instructions, each as the transactions it stands
for (30_encoding.md R86, R87). -/

namespace Sys2Proof.Machine

/-- The byte offset of a register (20_memory.md R53). An offset that names no register has none. -/
def regOffset (r : Reg) : Option Nat :=
  match r with
  | .cmd => some 0x000
  | .status => some 0x004
  | .data0 => some 0x008
  | .data1 => some 0x00C
  | .pad0 => some 0x010
  | .pad1 => some 0x014
  | .tkey0 => some 0x018
  | .tkey1 => some 0x01C
  | .tkey2 => some 0x020
  | .tkey3 => some 0x024
  | .rc4Klen => some 0x028
  | .rc4Ij => some 0x02C
  | .rc4Key w => some (0x100 + 4 * w.toNat)
  | .rc4S w => some (0x200 + 4 * w.toNat)
  | .reserved => none

/-- `wr` at a raw byte offset of the window. DESIGN CHOICE (log entry 14): for a number that is no such offset, which the
spec gives no meaning, the word index is taken by the division and wraps at the window's size. -/
def wrAt (off : Nat) (v : Word) : Transaction := .write (BitVec.ofNat 10 (off / 4)) v

/-- `rd` at a raw byte offset, by the same rule. -/
def rdAt (off : Nat) : Transaction := .read (BitVec.ofNat 10 (off / 4))

/-- `wr REG, imm32` (R86); a script cannot name a reserved offset. -/
def wr (r : Reg) (v : Word) : Option Transaction := (regOffset r).map fun off => wrAt off v

/-- `rd REG` (R86). -/
def rd (r : Reg) : Option Transaction := (regOffset r).map rdAt

/-- A command mnemonic with its counts; the assembler refuses a count outside its range (R86). -/
def assemble (i : Instr) : Option Transaction :=
  if i.wellFormed then some (wrAt 0x000 (encode i)) else none

/-- `vn.xor N` (R87). -/
def vnXorSame (n : Count) : Option Transaction := assemble (.vnXor n n)

/-- `rc4.prga` (R87). -/
def rc4PrgaOne : Option Transaction := assemble (.rc4Prga 1)

/-- `rc4.xor` (R87). -/
def rc4XorOne : Option Transaction := assemble (.rc4Xor 1)

/-- `clrerr` (R87). -/
def clrErr : Transaction := wrAt 0x004 0x00000001

/-- `ld.block A, B` (R87). -/
def ldBlock (a b : Word) : List Transaction := [wrAt 0x008 a, wrAt 0x00C b]

/-- `ld.pad A, B` (R87). -/
def ldPad (a b : Word) : List Transaction := [wrAt 0x010 a, wrAt 0x014 b]

/-- `ld.tkey A, B, C, D` (R87). -/
def ldTkey (a b c d : Word) : List Transaction := [wrAt 0x018 a, wrAt 0x01C b, wrAt 0x020 c, wrAt 0x024 d]

/-- `wr RC4_KEYw` for successive words from word `w` on. -/
def ldKeyWords (w : Nat) : List Word → List Transaction
  | [] => []
  | v :: vs => wrAt (0x100 + 4 * w) v :: ldKeyWords (w + 1) vs

/-- `ld.rc4key L, W0, ..., Wm` (R87). DESIGN CHOICE (log entry 14): the rule gives no expansion for more than 64 words,
since there is no RC4_KEYm above m = 63, nor for no word at all; here words past the 64th are dropped, and without a word
the statement is the write of RC4_KLEN alone. -/
def ldRc4Key (len : Word) (words : List Word) : List Transaction :=
  wrAt 0x028 len :: ldKeyWords 0 (words.take 64)

end Sys2Proof.Machine
end

