-- ==== Sys2Proof/Machine/HostDriver.lean ====
section
/-! DEFINITION. Host software on top of the engine: packing, the streaming procedures, CBC, padding and key derivation
(60_exceptions.md R150, R172 to R178). It drives the bus only; no engine rule depends on it. -/

namespace Sys2Proof.Machine

/-- What a host procedure reports instead of a result (60_exceptions.md R150). -/
inductive HostError where
  /-- A Vernam key stream shorter than the input (R173). -/
  | keyTooShort
  /-- A block buffer that is not 8 bytes (40_tea.md R107). -/
  | invalidBlockSize
  /-- A TEA key buffer that is not 16 bytes (40_tea.md R107). -/
  | invalidKeySize
  /-- A ciphertext file of a wrong length (R176). -/
  | corruptCiphertext
  /-- A padded text whose tail is no PKCS#7 padding (R177). -/
  | invalidPadding
  /-- An RC4 key longer than RC4_KLEN can say, 2^32 - 1 bytes (92 D15, 93 U13). -/
  | keyNotRepresentable
  /-- The class in which the host reports the empty RC4 key, with the engine's code (R150, 90_conflicts.md C1). -/
  | invalidArgument (ecode : BitVec 4)
  /-- The engine latched any other error; ECODE as STATUS reads it (R174, R180). -/
  | engine (ecode : BitVec 4)
  deriving DecidableEq, Repr

/-- A host procedure's answer: a stop of the model, or a report or a value beside the state it leaves. -/
abbrev HostResult (α : Type) := Result (Except HostError α × State)

/-- Transactions one after the other (20_memory.md R60). -/
def transactAll : List Transaction → State → Result State
  | [], s => .next s
  | t :: ts, s => onNext (transact t s) (transactAll ts)

/-- A word of four successive bytes, the first in bits 31:24 (R172); a byte beyond the end of the list is zero. -/
def packWord (bs : List Byte) : Word := bs.getD 0 0 ++ bs.getD 1 0 ++ bs.getD 2 0 ++ bs.getD 3 0

/-- The four bytes of a word, bits 31:24 first (R172). -/
def unpackWord (v : Word) : List Byte := [wordByte v 0, wordByte v 1, wordByte v 2, wordByte v 3]

/-- `ld.block` of up to 8 bytes (R172). -/
def loadBlockBytes (bs : List Byte) : List Transaction := ldBlock (packWord bs) (packWord (bs.drop 4))

/-- `ld.pad` of up to 8 bytes (R172). -/
def loadPadBytes (bs : List Byte) : List Transaction := ldPad (packWord bs) (packWord (bs.drop 4))

/-- `ld.tkey` of 16 key bytes, TKEYn = K[4n] ‖ … ‖ K[4n+3] (R172). -/
def loadTeaKey (k : List Byte) : List Transaction :=
  ldTkey (packWord k) (packWord (k.drop 4)) (packWord (k.drop 8)) (packWord (k.drop 12))

/-- A list cut into pieces of `size` elements, the last one possibly shorter; `fuel` bounds the number of pieces. -/
def chunksOf (size : Nat) : Nat → List Byte → List (List Byte)
  | 0, _ => []
  | fuel + 1, bs => if bs.isEmpty then [] else bs.take size :: chunksOf size fuel (bs.drop size)

/-- The chunks of a stream. DESIGN CHOICE (log entry 6): the spec lets a host cut a stream into chunks of any sizes up to
8 bytes (R173, R174; 42_vernam.md R143, 92 D19); this host takes 8 bytes each time and only the last chunk is shorter. -/
def chunks8 (bs : List Byte) : List (List Byte) := chunksOf 8 bs.length bs

/-- The words of RC4_KEY that hold the first 256 bytes of a key (R172, R174). -/
def keyWords (k : List Byte) : List Word := (chunksOf 4 64 (k.take 256)).map packWord

/-- What `rd DATA0`, `rd DATA1` give, as bytes (R172). -/
def dataBytes (s : State) : List Byte := unpackWord s.data0 ++ unpackWord s.data1

/-- Read DATA after a command: the two reads are transactions too. -/
def readData (s : State) : Result (List Byte × State) :=
  onNext (transactAll [rdAt 0x008, rdAt 0x00C] s) fun t => .next (dataBytes t, t)

/-- How the host reports a latched error: EmptyKey, engine code 2, in the InvalidArgument class, any other by its code
(R150, 90_conflicts.md C1). -/
def engineReport (ecode : BitVec 4) : HostError :=
  if ecode = EngineError.emptyKey.code then .invalidArgument ecode else .engine ecode

/-- Read STATUS before a result is used: an error latched by the sequence is reported (R174, R180). -/
def finish {α : Type} (a : α) (s : State) : HostResult α :=
  onNext (transact (rdAt 0x004) s) fun t =>
    let status := memRead (BitVec.ofNat 10 (0x004 / 4)) s
    .next (if status.getLsbD 0 then .error (engineReport (status.extractLsb' 4 4)) else .ok a, t)

/-- A report without any transaction. -/
def failWith {α : Type} (e : HostError) (s : State) : HostResult α := .next (.error e, s)

/-- One chunk: load what the command needs, issue the command word, read DATA, keep its first bytes (R173, R174). -/
def runChunk (load : List Transaction) (word : Word) (n : Nat) (s : State) : Result (List Byte × State) :=
  onNext (transactAll (load ++ [wrAt 0x000 word]) s) fun t =>
    onNext (readData t) fun (bs, u) => .next (bs.take n, u)

/-- The chunks of a Vernam stream with the matching slices of the key (R173). -/
def vernamChunks : List (List Byte × List Byte) → State → Result (List Byte × State)
  | [], s => .next ([], s)
  | (input, key) :: rest, s =>
    let n := BitVec.ofNat 4 input.length
    onNext (runChunk (loadBlockBytes input ++ loadPadBytes key) (encode (.vnXor n n)) input.length s) fun (out, t) =>
      onNext (vernamChunks rest t) fun (outs, u) => .next (out ++ outs, u)

/-- The Vernam cipher over whole streams (42_vernam.md R140, 60 R173): the length check is made up front, and the key
bytes past the input's length are never loaded. -/
def vernamStream (input key : List Byte) (s : State) : HostResult (List Byte) :=
  if key.length < input.length then failWith .keyTooShort s
  else
    onNext (vernamChunks ((chunks8 input).zip (chunks8 (key.take input.length))) s) fun (out, t) => finish out t

/-- The chunks of an RC4 stream (R174). -/
def rc4Chunks : List (List Byte) → State → Result (List Byte × State)
  | [], s => .next ([], s)
  | input :: rest, s =>
    onNext (runChunk (loadBlockBytes input) (encode (.rc4Xor (BitVec.ofNat 4 input.length))) input.length s)
      fun (out, t) => onNext (rc4Chunks rest t) fun (outs, u) => .next (out ++ outs, u)

/-- The RC4 file cipher (R174); it encrypts and decrypts alike. -/
def rc4Stream (key input : List Byte) (s : State) : HostResult (List Byte) :=
  if 2 ^ 32 ≤ key.length then failWith .keyNotRepresentable s
  else
    let setup := ldRc4Key (BitVec.ofNat 32 key.length) (keyWords key) ++ [wrAt 0x000 (encode .rc4Ksa)]
    onNext (transactAll setup s) fun t =>
      onNext (rc4Chunks (chunks8 input) t) fun (out, u) => finish out u

/-- PKCS#7 padding with B = 8 (R177). -/
def pad8 (bs : List Byte) : List Byte :=
  let p := 8 - bs.length % 8
  bs ++ List.replicate p (BitVec.ofNat 8 p)

/-- PKCS#7 unpadding with B = 8 (R177). -/
def unpad8 (bs : List Byte) : Except HostError (List Byte) :=
  let p := (bs.getLastD 0).toNat
  if bs.length % 8 ≠ 0 ∨ bs = [] ∨ p < 1 ∨ 8 < p then .error .invalidPadding
  else if (bs.drop (bs.length - p)).all (fun b => b.toNat == p) then .ok (bs.take (bs.length - p))
  else .error .invalidPadding

/-- CBC encryption of the padded blocks, in order (R175): DATA = P_i, PAD = the block before, vn.xor 8, 8, tea.enc. -/
def cbcEncBlocks : List (List Byte) → List Byte → State → Result (List Byte × State)
  | [], _, s => .next ([], s)
  | p :: ps, prev, s =>
    let load := loadBlockBytes p ++ loadPadBytes prev ++ [wrAt 0x000 (encode (.vnXor 8 8))]
    onNext (runChunk load (encode .teaEnc) 8 s) fun (c, t) =>
      onNext (cbcEncBlocks ps c t) fun (cs, u) => .next (c ++ cs, u)

/-- The driver's size checks of a key and a block, before any register is written (R150, 40_tea.md R107). DESIGN CHOICE
(log entry 12): the spec does not say which error is reported when both lengths are wrong; the key is checked first. -/
def checkSizes (key block : List Byte) : Option HostError :=
  if key.length ≠ 16 then some .invalidKeySize else if block.length ≠ 8 then some .invalidBlockSize else none

/-- encryptCBC (R175): IV ‖ C_0 ‖ C_1 ‖ …; the random IV is an argument, and one that is not 8 bytes is reported as a
block of a wrong size (log entry 12). -/
def encryptCBC (data key iv : List Byte) (s : State) : HostResult (List Byte) :=
  match checkSizes key iv with
  | some e => failWith e s
  | none =>
    onNext (transactAll (loadTeaKey key) s) fun t =>
      onNext (cbcEncBlocks (chunks8 (pad8 data)) iv t) fun (out, u) => finish (iv ++ out) u

/-- CBC decryption of the blocks (R176): DATA = C_i, tea.dec, PAD = the block before, vn.xor 8, 8. -/
def cbcDecBlocks : List (List Byte) → List Byte → State → Result (List Byte × State)
  | [], _, s => .next ([], s)
  | c :: cs, prev, s =>
    let load := loadBlockBytes c ++ [wrAt 0x000 (encode .teaDec)] ++ loadPadBytes prev
    onNext (runChunk load (encode (.vnXor 8 8)) 8 s) fun (p, t) =>
      onNext (cbcDecBlocks cs c t) fun (ps, u) => .next (p ++ ps, u)

/-- decryptCBC (R176). The file's length is checked before the key's (log entry 12). -/
def decryptCBC (file key : List Byte) (s : State) : HostResult (List Byte) :=
  if file.length < 8 ∨ (file.length - 8) % 8 ≠ 0 then failWith .corruptCiphertext s
  else
    let iv := file.take 8
    match checkSizes key iv with
    | some e => failWith e s
    | none =>
      onNext (transactAll (loadTeaKey key) s) fun t =>
        onNext (cbcDecBlocks (chunks8 (file.drop 8)) iv t) fun (out, u) =>
          onNext (finish out u) fun (r, w) => .next (r.bind unpad8, w)

/-- The UTF-8 encoding of a text, its characters one after the other (R178; log entry 13). -/
def utf8Bytes (text : List Char) : List Byte :=
  text.flatMap fun c => (String.utf8EncodeChar c).map UInt8.toBitVec

/-- deriveKey (R178): the first 16 bytes of the hash of the UTF-8-encoded passphrase. -/
def deriveKey (passphrase : List Char) : List Byte :=
  (Config.passphraseHash (utf8Bytes passphrase)).toList.take 16

/-- The derived key packed into TKEY0 to TKEY3 (R178, R172). -/
def loadDerivedKey (passphrase : List Char) : List Transaction := loadTeaKey (deriveKey passphrase)

/-- The driver's TEA of one block (R107, R150): sizes are checked before any register is written. -/
def teaBlock (word : Word) (key block : List Byte) (s : State) : HostResult (List Byte) :=
  match checkSizes key block with
  | some e => failWith e s
  | none =>
    onNext (runChunk (loadTeaKey key ++ loadBlockBytes block) word 8 s) fun (out, t) => finish out t

end Sys2Proof.Machine
end

