-- ==== Sys2Proof/Safety.lean ====
section
/-! DEFINITION. What holds of the engine in every state a run reaches. -/

namespace Sys2Proof.Machine

/-- The array is a permutation of 0 to 255 (10_state.md R29). -/
abbrev IsPermutation (a : Bytes256) : Prop := a.toList.Perm identityBox.toList

/-- The error latch: ECODE is a code of 60_exceptions.md R151, it is 0 exactly when ERR is 0, and DROP is 0 when ERR
is 0 (10_state.md R33). -/
abbrev LatchOk (s : State) : Prop :=
  s.ecode.toNat ≤ 4 ∧ (s.ecode = 0 ↔ s.err = false) ∧ (s.err = false → s.drop = false)

/-- Before the first key schedule the RC4 state is the reset one (10_state.md R31, R32, R36). -/
abbrev UnkeyedIsReset (s : State) : Prop :=
  s.rc4rdy = false → s.sbox = identityBox ∧ s.i = 0 ∧ s.j = 0

/-- The invariant of the engine. -/
abbrev State.Inv (s : State) : Prop := IsPermutation s.sbox ∧ LatchOk s ∧ UnkeyedIsReset s

end Sys2Proof.Machine
end

