-- ==== Sys2Proof/Certificates/Slice0/Obligations.lean ====
section
/-! DEFINITION. The statements about the engine. Those with basis 'stated' formalise numbered rules of spec/; the notions
under Spec below are written from the rules' arithmetic and recurrences, not from the model's own loops. -/

namespace Sys2Proof.Spec

/-- `legal(op, n, k, rsv)` by plain arithmetic on the word's value (30_encoding.md R81, R83, R84). -/
def legalWord (v : Word) : Prop :=
  let op := v.toNat % 256
  let n := v.toNat / 256 % 16
  let k := v.toNat / 4096 % 16
  v.toNat / 65536 = 0 ∧
    ((op = 0x01 ∨ op = 0x02 ∨ op = 0x10) ∧ n = 0 ∧ k = 0 ∨
      (op = 0x11 ∨ op = 0x12) ∧ 1 ≤ n ∧ n ≤ 8 ∧ k = 0 ∨
      op = 0x20 ∧ 1 ≤ n ∧ n ≤ 8 ∧ k ≤ 8)

/-- The state after an error with this code: ERR and ECODE written, nothing else (60_exceptions.md R152). -/
def latched (code : BitVec 4) (s : Machine.State) : Machine.State := { s with err := true, ecode := code }

/-- `swap(A[x], A[y])` of an array given as a function of its index (00_scope.md R12). -/
def swapped (a : Byte → Byte) (x y : Byte) : Byte → Byte :=
  fun k => if k = x then a y else if k = y then a x else a k

/-- F(v, s, ka, kb) of 40_tea.md R101. -/
def roundF (v sum ka kb : Word) : Word := ((v <<< 4) + ka) ^^^ (v + sum) ^^^ ((v >>> 5) + kb)

/-- `v0` and `v1` before round r + 1 of an encryption, r from 0 to 32, started from DATA with the key in TKEY; round r
uses `sum = r * DELTA mod 2^32` (40_tea.md R102). -/
def EncryptTrace (s : Machine.State) (v0 v1 : Nat → Word) : Prop :=
  v0 0 = s.data0 ∧ v1 0 = s.data1 ∧
    ∀ r < 32, let sum := BitVec.ofNat 32 ((r + 1) * 0x9E3779B9)
      v0 (r + 1) = v0 r + roundF (v1 r) sum s.tkey0 s.tkey1 ∧
      v1 (r + 1) = v1 r + roundF (v0 (r + 1)) sum s.tkey2 s.tkey3

/-- The same of a decryption; its round r + 1 uses `sum = (32 - r) * DELTA mod 2^32` (40_tea.md R104). -/
def DecryptTrace (s : Machine.State) (v0 v1 : Nat → Word) : Prop :=
  v0 0 = s.data0 ∧ v1 0 = s.data1 ∧
    ∀ r < 32, let sum := BitVec.ofNat 32 ((32 - r) * 0x9E3779B9)
      v1 (r + 1) = v1 r - roundF (v0 r) sum s.tkey2 s.tkey3 ∧
      v0 (r + 1) = v0 r - roundF (v1 (r + 1)) sum s.tkey0 s.tkey1

/-- `box` and `j` before iteration i of a key schedule, for a key given as a function of the index (41_rc4.md R120). -/
def ScheduleTrace (key : Nat → Byte) (klen : Nat) (box : Nat → Byte → Byte) (j : Nat → Byte) : Prop :=
  (∀ x, box 0 x = x) ∧ j 0 = 0 ∧
    ∀ i < 256, let x := BitVec.ofNat 8 i
      j (i + 1) = j i + box i x + key (i % klen) ∧ box (i + 1) = swapped (box i) x (j (i + 1))

/-- I, J and S before keystream byte b of `n`, and the bytes, from the state `s` on (41_rc4.md R121). -/
def KeystreamTrace (s : Machine.State) (n : Nat) (i j : Nat → Byte) (box : Nat → Byte → Byte) (out : Nat → Byte) : Prop :=
  i 0 = s.i ∧ j 0 = s.j ∧ (∀ x, box 0 x = Machine.byteAt s.sbox x) ∧
    ∀ b < n, i (b + 1) = i b + 1 ∧ j (b + 1) = j b + box b (i (b + 1)) ∧
      box (b + 1) = swapped (box b) (i (b + 1)) (j (b + 1)) ∧
      out b = box (b + 1) (box (b + 1) (i (b + 1)) + box (b + 1) (j (b + 1)))

/-- `byte(DATA, b)`: bits 31-8b : 24-8b of DATA0 for b below 4, of DATA1 above (10_state.md R24). -/
def dataByte (s : Machine.State) (b : Nat) : Byte :=
  if b < 4 then s.data0.extractLsb' (24 - 8 * b) 8 else s.data1.extractLsb' (24 - 8 * (b - 4)) 8

/-- `byte(PAD, b)` likewise (10_state.md R24). -/
def padByte (s : Machine.State) (b : Nat) : Byte :=
  if b < 4 then s.pad0.extractLsb' (24 - 8 * b) 8 else s.pad1.extractLsb' (24 - 8 * (b - 4)) 8

/-- The register at a byte offset of the window, by its word index (20_memory.md R50, R51). -/
def atOffset (off : Nat) : WordIndex := BitVec.ofNat 10 (off / 4)

/-- Commands RC4.PRGA with the given counts one after the other, and the bytes 0 to N-1 of DATA after each. -/
def prgaChunks : List Count → Machine.State → Machine.Result (List Byte × Machine.State)
  | [], s => .next ([], s)
  | n :: ns, s =>
    Machine.onNext (Machine.exec (.rc4Prga n) s) fun t =>
      Machine.onNext (prgaChunks ns t) fun (bs, u) => .next ((List.range n.toNat).map (dataByte t) ++ bs, u)

/-- For each pair of a count and a block: DATA is loaded with the block, RC4.XOR runs, and DATA is kept. -/
def xorChunks : List (Count × Word × Word) → Machine.State → Machine.Result (List (Count × Word × Word) × Machine.State)
  | [], s => .next ([], s)
  | (n, a, b) :: ds, s =>
    Machine.onNext (Machine.exec (.rc4Xor n) { s with data0 := a, data1 := b }) fun t =>
      Machine.onNext (xorChunks ds t) fun (cs, u) => .next ((n, t.data0, t.data1) :: cs, u)

/-- The first N bytes of a chunk of a count and the two words of DATA, by the byte view of 10_state.md R24. -/
def chunkBytes (c : Count × Word × Word) : List Byte :=
  (List.range c.1.toNat).map fun b =>
    if b < 4 then c.2.1.extractLsb' (24 - 8 * b) 8 else c.2.2.extractLsb' (24 - 8 * (b - 4)) 8

/-- An event of the host that goes through the bus bridge (20_memory.md R56). -/
def throughBridge (e : Machine.HostEvent) : Bool :=
  match e with
  | .cpuRead _ _ => true
  | .cpuWrite _ _ _ => true
  | _ => false

end Sys2Proof.Spec

open Sys2Proof Sys2Proof.Machine

/-! ## Reset and the step -/

/-- R36: every piece of state after reset, and what STATUS, RC4_IJ, RC4_Sw read then; a TEA command issued before any
key write uses the all-zero key. -/
def Obligations.ResetValues : Prop :=
  let z := State.reset
  z.data0 = 0 ∧ z.data1 = 0 ∧ z.pad0 = 0 ∧ z.pad1 = 0 ∧
    z.tkey0 = 0 ∧ z.tkey1 = 0 ∧ z.tkey2 = 0 ∧ z.tkey3 = 0 ∧ z.klen = 0 ∧
    (∀ k : Byte, byteAt z.key k = 0) ∧ (∀ k : Byte, byteAt z.sbox k = k) ∧ z.i = 0 ∧ z.j = 0 ∧
    z.rc4rdy = false ∧ z.err = false ∧ z.drop = false ∧ z.ecode = 0 ∧
    memRead (Spec.atOffset 0x004) z = 0x00000000 ∧ memRead (Spec.atOffset 0x02C) z = 0x00000000 ∧
    (∀ w < 64, memRead (Spec.atOffset (0x200 + 4 * w)) z =
      BitVec.ofNat 8 (4 * w) ++ BitVec.ofNat 8 (4 * w + 1) ++ BitVec.ofNat 8 (4 * w + 2) ++ BitVec.ofNat 8 (4 * w + 3)) ∧
    (∀ i ∈ [Instr.teaEnc, Instr.teaDec], ∀ a b : Word, exec i { z with data0 := a, data1 := b } =
      exec i { z with data0 := a, data1 := b, tkey0 := 0, tkey1 := 0, tkey2 := 0, tkey3 := 0 })

/-- Reset between two transactions puts every piece of the engine's state to its reset value (R190). That the host's
side, the model's own fields, goes on is the model's choice (log entries 1 and 11). -/
def Obligations.ResetEventRestoresEveryRegister : Prop :=
  ∀ (s : State) (rest : List HostEvent), s.pending = .reset :: rest →
    step s = .next { State.reset with pending := rest, responses := s.responses }

/-- A command cut short by reset leaves the reset state whatever the command was (R191); the bus answer is open, and the
statement holds for every value of it (log entries 2 and 11). -/
def Obligations.ResetDuringCommandLeavesResetState : Prop :=
  ∀ (s : State) (v : Word) (rest : List HostEvent), s.pending = .resetDuringCommand v :: rest →
    ∃ r, step s = .next { State.reset with pending := rest, responses := .aborted r :: s.responses }

/-- A write of a command word to CMD, as the host's next event, runs exactly the decoded command; the step adds that the
event is taken from the host's list and that the write completes (R30, R52, R80, R156). -/
def Obligations.StepRunsDecodedCommand : Prop :=
  ∀ (s : State) (v : Word) (i : Instr) (rest : List HostEvent),
    s.pending = .bus (.write (Spec.atOffset 0x000) v) :: rest → decode v = .ok i →
    step s = onNext (exec i { s with pending := rest }) fun t => .next { t with responses := .done :: t.responses }

/-- Every event of the host that does not go through the bus bridge completes in one step, which takes it from the host's
list (R198); the bridge's accesses stand in BridgePassesAlignedWordsOnly. That a step with nothing pending is the idle step is the model's choice (R193; log entry 1). -/
def Obligations.EveryTransactionCompletes : Prop :=
  (∀ s : State, s.pending = [] → step s = .next s) ∧
    ∀ (s : State) (e : HostEvent) (rest : List HostEvent), s.pending = e :: rest → Spec.throughBridge e = false →
      ∃ t, step s = .next t ∧ t.pending = rest

/-- The model's choice of a bridge (R50, R56; log entry 4): a host CPU's aligned 32-bit access into the window is the
transaction at its word; any other access whose address lies in the window is refused; an address outside the window
reaches no register of the engine. -/
def Obligations.BridgePassesAlignedWordsOnly : Prop :=
  ∀ (s : State) (addr size : Nat) (v : Word) (rest : List HostEvent),
    let inside := windowBase ≤ addr ∧ addr < windowBase + 4096
    let aligned := size = 4 ∧ addr % 4 = 0
    let word := Spec.atOffset (addr - windowBase)
    (s.pending = .cpuRead addr size :: rest →
      (inside → aligned → step s = step { s with pending := .bus (.read word) :: rest }) ∧
      (inside → ¬ aligned → step s = .refused .bridgeSubword) ∧ (¬ inside → step s = .fault .outsideWindow)) ∧
    (s.pending = .cpuWrite addr size v :: rest →
      (inside → aligned → step s = step { s with pending := .bus (.write word v) :: rest }) ∧
      (inside → ¬ aligned → step s = .refused .bridgeSubword) ∧ (¬ inside → step s = .fault .outsideWindow))

/-! ## Encoding -/

/-- Decoding the word of a well-formed command gives the command, with every operand at every legal value. -/
def Obligations.EncodeThenDecode : Prop := ∀ i : Instr, i.wellFormed = true → decode (encode i) = .ok i

/-- A word that decodes is the word of the command it decodes to, and that command is well formed. -/
def Obligations.DecodeThenEncode : Prop :=
  ∀ (v : Word) (i : Instr), decode v = .ok i → i.wellFormed = true ∧ encode i = v

/-- R84: the words that decode are exactly the legal ones; every other raises IllegalCommand and has no other effect. -/
def Obligations.DecoderAcceptsExactlyLegalWords : Prop :=
  ∀ v : Word, ((∃ i, decode v = .ok i) ↔ Spec.legalWord v) ∧
    (¬ Spec.legalWord v → ∀ s : State, s.err = false → execute v s = .next (Spec.latched 1 s))

/-- R88: the encoding examples. -/
def Obligations.EncodingExamples : Prop :=
  (∀ p ∈ [(Instr.rc4Xor 8, (0x00000812 : Word)), (.rc4Prga 1, 0x00000111), (.vnXor 8 8, 0x00008820),
      (.vnXor 8 4, 0x00004820), (.vnXor 3 0, 0x00000320), (.rc4Prga 8, 0x00000811)],
    assemble p.1 = some (.write (Spec.atOffset 0x000) p.2) ∧ decode p.2 = .ok p.1) ∧
    (∀ s : State, s.err = false → execute 0x00004820 s = .next (Spec.latched 3 s)) ∧
    ∀ v ∈ [(0x00001811 : Word), 0x00000011, 0x00000911, 0x00000101, 0x00010001, 0x00000000],
      (decode v).toOption = none ∧ ∀ s : State, s.err = false → execute v s = .next (Spec.latched 1 s)

/-- Writing a command's word to CMD has the command's meaning, for every value of the count fields, a word whose counts
are out of range included (R80, R153). -/
def Obligations.CommandWordRunsItsMeaning : Prop := ∀ (i : Instr) (s : State), execute (encode i) s = exec i s

/-! ## Errors -/

/-- R155: a command word written while ERR = 1 sets DROP and changes nothing else, whatever the word. -/
def Obligations.CommandDroppedWhileLatched : Prop :=
  ∀ s : State, s.err = true →
    (∀ v : Word, execute v s = .next { s with drop := true }) ∧ ∀ i : Instr, exec i s = .next { s with drop := true }

/-- R153, R154: which error a command word raises, the first condition that holds in the order drop, IllegalCommand, the
command's own check; with none the latch is unchanged (R35). -/
def Obligations.ErrorConditionsInPriorityOrder : Prop :=
  ∀ (v : Word) (s : State),
    let op := v.toNat % 256
    let n := v.toNat / 256 % 16
    let k := v.toNat / 4096 % 16
    ∃ t, execute v s = .next t ∧
      (s.err = true → t = { s with drop := true }) ∧
      (s.err = false → ¬ Spec.legalWord v → t = Spec.latched 1 s) ∧
      (s.err = false → Spec.legalWord v → op = 0x10 → s.klen = 0 → t = Spec.latched 2 s) ∧
      (s.err = false → Spec.legalWord v → op = 0x11 ∨ op = 0x12 → s.rc4rdy = false → t = Spec.latched 4 s) ∧
      (s.err = false → Spec.legalWord v → op = 0x20 → k < n → t = Spec.latched 3 s) ∧
      (s.err = false → Spec.legalWord v → ¬ (op = 0x10 ∧ s.klen = 0) →
        ¬ ((op = 0x11 ∨ op = 0x12) ∧ s.rc4rdy = false) → ¬ (op = 0x20 ∧ k < n) →
        t.err = false ∧ t.drop = s.drop ∧ t.ecode = s.ecode)

/-- R152: an error is precise: the state after a command that raised one differs from the state before in ERR and ECODE
only, and the code is one of R151. -/
def Obligations.ErrorsArePrecise : Prop :=
  ∀ (v : Word) (s t : State), s.err = false → execute v s = .next t → t.err = true →
    t = { s with err := true, ecode := t.ecode } ∧ t.ecode ∈ [(1 : BitVec 4), 2, 3, 4]

/-- R157: a STATUS write with bit 0 set ends the error state and restores nothing else; where the latch is in order,
clearing while ERR = 0 has no effect. -/
def Obligations.StatusWriteClearsLatch : Prop :=
  ∀ (s : State) (v : Word), v.getLsbD 0 = true →
    memWrite (Spec.atOffset 0x004) v s = .next { s with err := false, drop := false, ecode := 0 } ∧
    (LatchOk s → s.err = false → memWrite (Spec.atOffset 0x004) v s = .next s)

/-! ## The window -/

/-- The fields of STATUS as they read, and that a write with bit 0 clear does nothing (R33). -/
def Obligations.StatusFields : Prop :=
  ∀ s : State, let v := memRead (Spec.atOffset 0x004) s
    v.getLsbD 0 = s.err ∧ v.getLsbD 1 = s.drop ∧ v.getLsbD 2 = s.rc4rdy ∧ v.getLsbD 3 = false ∧
      v.extractLsb' 4 4 = s.ecode ∧ v.extractLsb' 8 24 = 0 ∧
      ∀ w : Word, w.getLsbD 0 = false → memWrite (Spec.atOffset 0x004) w s = .next s

/-- R34: a write of CMD starts the command its value encodes and keeps nothing of the value; a read returns 0. -/
def Obligations.CmdIsTriggerOnly : Prop :=
  ∀ s : State, memRead (Spec.atOffset 0x000) s = 0 ∧
    (∀ v : Word, memWrite (Spec.atOffset 0x000) v s = execute v s) ∧
    ∀ (v : Word) (t : State), execute v s = .next t → memRead (Spec.atOffset 0x000) t = 0

/-- What every register of the window reads (R52, R53): CMD 0, STATUS its fields at their weights, and the bytes of RC4_KEYw and RC4_Sw one by one, the lowest-numbered
in bits 31:24. -/
def Obligations.ReadsFollowRegisterMap : Prop :=
  ∀ s : State,
    memRead (Spec.atOffset 0x000) s = 0 ∧
    (memRead (Spec.atOffset 0x004) s).toNat =
      16 * s.ecode.toNat + 4 * s.rc4rdy.toNat + 2 * s.drop.toNat + s.err.toNat ∧
    memRead (Spec.atOffset 0x008) s = s.data0 ∧ memRead (Spec.atOffset 0x00C) s = s.data1 ∧
    memRead (Spec.atOffset 0x010) s = s.pad0 ∧ memRead (Spec.atOffset 0x014) s = s.pad1 ∧
    memRead (Spec.atOffset 0x018) s = s.tkey0 ∧ memRead (Spec.atOffset 0x01C) s = s.tkey1 ∧
    memRead (Spec.atOffset 0x020) s = s.tkey2 ∧ memRead (Spec.atOffset 0x024) s = s.tkey3 ∧
    memRead (Spec.atOffset 0x028) s = s.klen ∧
    (memRead (Spec.atOffset 0x02C) s).toNat = 256 * s.j.toNat + s.i.toNat ∧
    ∀ w < 64, ∀ m < 4,
      (memRead (Spec.atOffset (0x100 + 4 * w)) s).extractLsb' (24 - 8 * m) 8 = byteAt s.key (BitVec.ofNat 8 (4 * w + m)) ∧
      (memRead (Spec.atOffset (0x200 + 4 * w)) s).extractLsb' (24 - 8 * m) 8 = byteAt s.sbox (BitVec.ofNat 8 (4 * w + m))

/-- A write of a storage register (DATA, PAD, TKEY, RC4_KLEN, RC4_KEY) is accepted whatever ERR is, reads back, and
leaves every other register as it read (R52, R53, R180). -/
def Obligations.StorageWriteReadsBack : Prop :=
  ∀ (s : State) (w : WordIndex) (v : Word),
    (0x008 ≤ 4 * w.toNat ∧ 4 * w.toNat ≤ 0x028 ∨ 0x100 ≤ 4 * w.toNat ∧ 4 * w.toNat < 0x200) →
    ∃ t, memWrite w v s = .next t ∧ memRead w t = v ∧ (∀ u, u ≠ w → memRead u t = memRead u s) ∧
      t.pending = s.pending ∧ t.responses = s.responses

/-- R54: reserved offsets read 0, and writes to them, to RC4_IJ and to RC4_Sw have no effect. -/
def Obligations.ReservedAndReadOnlyOffsets : Prop :=
  ∀ (s : State) (w : WordIndex) (v : Word), let off := 4 * w.toNat
    ((0x030 ≤ off ∧ off ≤ 0x0FC ∨ 0x300 ≤ off) → memRead w s = 0 ∧ memWrite w v s = .next s) ∧
    ((off = 0x02C ∨ 0x200 ≤ off ∧ off ≤ 0x2FC) → memWrite w v s = .next s)

/-- A read changes no register: the step takes the event and answers the value (R52, R57). -/
def Obligations.ReadsHaveNoSideEffect : Prop :=
  ∀ (s : State) (w : WordIndex) (rest : List HostEvent), s.pending = .bus (.read w) :: rest →
    step s = .next { s with pending := rest, responses := .value (memRead w s) :: s.responses }

/-- The byte view of an eight-byte buffer (R24): each byte's place, and a byte write replaces its 8 bits only. -/
def Obligations.ByteViewIsBigEndian : Prop :=
  (∀ (buf0 buf1 : Word) (b : Nat), b < 8 → getByte (buf0 ++ buf1) b =
    if b < 4 then buf0.extractLsb' (24 - 8 * b) 8 else buf1.extractLsb' (24 - 8 * (b - 4)) 8) ∧
  (∀ (s : State) (d : Block), (s.setData d).data = d ∧ s.setData d = { s with data0 := (s.setData d).data0, data1 := (s.setData d).data1 }) ∧
  ∀ (buf : Block) (b : Nat) (x : Byte), b < 8 → ∀ p < 64,
    (setByte buf b x).getLsbD p =
      if 56 - 8 * b ≤ p ∧ p ≤ 63 - 8 * b then x.getLsbD (p - (56 - 8 * b)) else buf.getLsbD p

/-! ## TEA -/

/-- R102: TEA.ENC: its word, and its whole effect. While ERR = 0 it completes, writes DATA with the 32 rounds' result
and changes nothing else. -/
def Obligations.TeaEncResult : Prop :=
  decode 0x00000001 = .ok .teaEnc ∧
    (∀ (v : Word) (s : State), v.toNat % 256 = 0x01 → v ≠ 0x00000001 → s.err = false → execute v s = .next (Spec.latched 1 s)) ∧
    (∀ s : State, s.err = true → exec .teaEnc s = .next { s with drop := true }) ∧
    (∀ s : State, s.err = false → ∃ v0 v1 : Nat → Word, Spec.EncryptTrace s v0 v1 ∧
      exec .teaEnc s = .next { s with data0 := v0 32, data1 := v1 32 }) ∧
    ∀ s : State, s.err = false → s.tkey0 = 0 → s.tkey1 = 0 → s.tkey2 = 0 → s.tkey3 = 0 → s.data0 = 0 → s.data1 = 0 →
      exec .teaEnc s = .next { s with data0 := 0x41EA3A0A, data1 := 0x94BAA940 }

/-- R104: TEA.DEC: its word, and its whole effect. While ERR = 0 it completes, writes DATA with the 32 rounds' result
and changes nothing else; the block it yields is the one TEA.ENC maps to the block it got. -/
def Obligations.TeaDecResult : Prop :=
  decode 0x00000002 = .ok .teaDec ∧
    (∀ (v : Word) (s : State), v.toNat % 256 = 0x02 → v ≠ 0x00000002 → s.err = false → execute v s = .next (Spec.latched 1 s)) ∧
    (∀ s : State, s.err = true → exec .teaDec s = .next { s with drop := true }) ∧
    (∀ s : State, s.err = false → ∃ v0 v1 : Nat → Word, Spec.DecryptTrace s v0 v1 ∧
      exec .teaDec s = .next { s with data0 := v0 32, data1 := v1 32 }) ∧
    (∀ s u : State, s.err = false → u.err = false → (exec .teaEnc u = .next s ↔ exec .teaDec s = .next u)) ∧
    ∀ s : State, s.err = false → s.tkey0 = 0 → s.tkey1 = 0 → s.tkey2 = 0 → s.tkey3 = 0 →
      s.data0 = 0x41EA3A0A → s.data1 = 0x94BAA940 → exec .teaDec s = .next { s with data0 := 0, data1 := 0 }

/-- R105: TEA.DEC after TEA.ENC gives the block back, and so does TEA.ENC after TEA.DEC. -/
def Obligations.TeaCommandsAreInverse : Prop :=
  ∀ s : State, s.err = false →
    (∃ t, exec .teaEnc s = .next t ∧ exec .teaDec t = .next s) ∧ ∃ t, exec .teaDec s = .next t ∧ exec .teaEnc t = .next s

/-- R106: the result of a TEA command is a function of DATA and TKEY alone; no TEA command writes PAD, RC4_KLEN, KEY, S,
I or J. -/
def Obligations.TeaIsStateless : Prop :=
  ∀ i ∈ [Instr.teaEnc, Instr.teaDec], ∀ s t : State, s.err = false → t.err = false →
    s.data0 = t.data0 → s.data1 = t.data1 → s.tkey0 = t.tkey0 → s.tkey1 = t.tkey1 → s.tkey2 = t.tkey2 →
    s.tkey3 = t.tkey3 →
    ∃ s' t', exec i s = .next s' ∧ exec i t = .next t' ∧ s'.data0 = t'.data0 ∧ s'.data1 = t'.data1 ∧
      s' = { s with data0 := s'.data0, data1 := s'.data1 }

/-! ## RC4 -/

/-- RC4.KSA by the schedule of R120 (R122): EmptyKey on the empty key with no other effect; else the schedule from the identity, I and J
zero, RC4RDY set, and nothing else changed. -/
def Obligations.Rc4KsaResult : Prop :=
  decode 0x00000010 = .ok .rc4Ksa ∧
    ∀ s : State, s.err = false →
      (s.klen = 0 → exec .rc4Ksa s = .next (Spec.latched 2 s)) ∧
      (s.klen ≠ 0 → ∃ t box j,
        Spec.ScheduleTrace (fun x => byteAt s.key (BitVec.ofNat 8 x)) s.klen.toNat box j ∧
        exec .rc4Ksa s = .next t ∧ (∀ x, byteAt t.sbox x = box 256 x) ∧
        t = { s with sbox := t.sbox, i := 0, j := 0, rc4rdy := true })

/-- R121: one keystream step: I and J advance, S[I] and S[J] are swapped, the byte is read after the swap, and nothing
but I, J and S changes. -/
def Obligations.KeystreamStep : Prop :=
  ∀ s : State, let t := rc4Advance s
    t.i = s.i + 1 ∧ t.j = s.j + byteAt s.sbox t.i ∧
      (∀ x, byteAt t.sbox x = Spec.swapped (byteAt s.sbox) t.i t.j x) ∧
      rc4Output t = byteAt t.sbox (byteAt t.sbox t.i + byteAt t.sbox t.j) ∧
      t = { s with i := t.i, j := t.j, sbox := t.sbox } ∧
      (t.i = t.j → t.sbox = s.sbox ∧ rc4Output t = byteAt s.sbox (2 * byteAt s.sbox t.i))

/-- RC4.PRGA N (R123): IllegalCommand on a count outside 1 to 8; Rc4NotKeyed before any schedule with no other effect; else bytes 0 to N-1 of DATA are the next N
keystream bytes, the others stay, I, J and S advance N steps, and nothing else changes. -/
def Obligations.Rc4PrgaResult : Prop :=
  (∀ (s : State) (n : Count), s.err = false → ¬ (1 ≤ n.toNat ∧ n.toNat ≤ 8) →
    exec (.rc4Prga n) s = .next (Spec.latched 1 s)) ∧
  ∀ (s : State) (n : Count), s.err = false → 1 ≤ n.toNat → n.toNat ≤ 8 →
    decode (BitVec.ofNat 32 (0x11 + 256 * n.toNat)) = .ok (.rc4Prga n) ∧
    (s.rc4rdy = false → exec (.rc4Prga n) s = .next (Spec.latched 4 s)) ∧
    (s.rc4rdy = true → ∃ t i j box out, Spec.KeystreamTrace s n.toNat i j box out ∧
      exec (.rc4Prga n) s = .next t ∧ t.i = i n.toNat ∧ t.j = j n.toNat ∧
      (∀ x, byteAt t.sbox x = box n.toNat x) ∧
      (∀ b < 8, Spec.dataByte t b = if b < n.toNat then out b else Spec.dataByte s b) ∧
      t = { s with data0 := t.data0, data1 := t.data1, sbox := t.sbox, i := t.i, j := t.j })

/-- RC4.XOR N (R124): as RC4.PRGA, with the keystream bytes XORed into bytes 0 to N-1 of DATA; on zero data it is
RC4.PRGA N. -/
def Obligations.Rc4XorResult : Prop :=
  (∀ (s : State) (n : Count), s.err = false → ¬ (1 ≤ n.toNat ∧ n.toNat ≤ 8) →
    exec (.rc4Xor n) s = .next (Spec.latched 1 s)) ∧
  ∀ (s : State) (n : Count), s.err = false → 1 ≤ n.toNat → n.toNat ≤ 8 →
    decode (BitVec.ofNat 32 (0x12 + 256 * n.toNat)) = .ok (.rc4Xor n) ∧
    (s.rc4rdy = false → exec (.rc4Xor n) s = .next (Spec.latched 4 s)) ∧
    (s.rc4rdy = true → ∃ t i j box out, Spec.KeystreamTrace s n.toNat i j box out ∧
      exec (.rc4Xor n) s = .next t ∧ t.i = i n.toNat ∧ t.j = j n.toNat ∧
      (∀ x, byteAt t.sbox x = box n.toNat x) ∧
      (∀ b < 8, Spec.dataByte t b = if b < n.toNat then Spec.dataByte s b ^^^ out b else Spec.dataByte s b) ∧
      t = { s with data0 := t.data0, data1 := t.data1, sbox := t.sbox, i := t.i, j := t.j }) ∧
    (s.data0 = 0 → s.data1 = 0 → exec (.rc4Xor n) s = exec (.rc4Prga n) s)

/-- S, I, J or RC4RDY change in a step only by reset or by a CMD write, on the port or through the bridge, that runs
RC4.KSA, RC4.PRGA or RC4.XOR to success; every other transaction, dropped and faulting commands included, leaves them (R32). The events a step takes
are the model's (log entries 1, 4 and 11). -/
def Obligations.OnlyRc4CommandsChangeRc4State : Prop :=
  ∀ s t : State, step s = .next t →
    ¬ (t.sbox = s.sbox ∧ t.i = s.i ∧ t.j = s.j ∧ t.rc4rdy = s.rc4rdy) →
    ∃ e rest, s.pending = e :: rest ∧
      (e = .reset ∨ (∃ v, e = .resetDuringCommand v) ∨
        ∃ v : Word, (e = .bus (.write (Spec.atOffset 0x000) v) ∨ e = .cpuWrite windowBase 4 v) ∧
          s.err = false ∧ t.err = false ∧ Spec.legalWord v ∧
          (v.toNat % 256 = 0x10 ∨ v.toNat % 256 = 0x11 ∨ v.toNat % 256 = 0x12))

/-- The bytes that RC4.PRGA commands of any counts write, nothing between them, are the bytes of one pass, and they leave
I, J and S as that pass does (R125). -/
def Obligations.ChunkingKeepsKeystream : Prop :=
  ∀ (ns : List Count) (s : State), s.err = false → s.rc4rdy = true → (∀ n ∈ ns, 1 ≤ n.toNat ∧ n.toNat ≤ 8) →
    let total := (ns.map BitVec.toNat).sum
    ∃ t i j box out, Spec.KeystreamTrace s total i j box out ∧
      Spec.prgaChunks ns s = .next ((List.range total).map out, t) ∧
      t.i = i total ∧ t.j = j total ∧ ∀ x, byteAt t.sbox x = box total x

/-- The bytes that RC4.XOR commands of any counts leave, DATA loaded before each, are the input bytes XORed with the
bytes of one pass, and the commands leave I, J and S as that pass does (R124, R125). -/
def Obligations.ChunkingKeepsXorStream : Prop :=
  ∀ (ds : List (Count × Word × Word)) (s : State), s.err = false → s.rc4rdy = true →
    (∀ d ∈ ds, 1 ≤ d.1.toNat ∧ d.1.toNat ≤ 8) →
    let total := (ds.map fun d => d.1.toNat).sum
    ∃ cs t i j box out, Spec.KeystreamTrace s total i j box out ∧ Spec.xorChunks ds s = .next (cs, t) ∧
      cs.flatMap Spec.chunkBytes = List.zipWith (· ^^^ ·) (ds.flatMap Spec.chunkBytes) ((List.range total).map out) ∧
      t.i = i total ∧ t.j = j total ∧ ∀ x, byteAt t.sbox x = box total x

/-- R126: RC4.KSA, RC4.XOR over the data in chunks, RC4.KSA, RC4.XOR over the result gives the data back. -/
def Obligations.Rc4IsSymmetric : Prop :=
  ∀ (ds : List (Count × Word × Word)) (s : State), s.err = false → s.klen ≠ 0 →
    (∀ d ∈ ds, 1 ≤ d.1.toNat ∧ d.1.toNat ≤ 8) →
    ∃ s1 cs s2 s3 s4, exec .rc4Ksa s = .next s1 ∧ Spec.xorChunks ds s1 = .next (cs, s2) ∧
      exec .rc4Ksa s2 = .next s3 ∧ Spec.xorChunks cs s3 = .next (ds, s4)

/-- R127: for a key of more than 256 bytes whose first 256 are in KEY, the schedule is the one over the whole key, and
RC4_KLEN = 256 gives the same. -/
def Obligations.LongKeysScheduleExactly : Prop :=
  ∀ (k : List Byte) (s : State), s.err = false → 256 < k.length → s.klen.toNat = k.length →
    (∀ x < 256, byteAt s.key (BitVec.ofNat 8 x) = k.getD x 0) →
    ∃ t u box j, Spec.ScheduleTrace (fun x => k.getD x 0) k.length box j ∧
      exec .rc4Ksa s = .next t ∧ (∀ x, byteAt t.sbox x = box 256 x) ∧
      exec .rc4Ksa { s with klen := 256 } = .next u ∧ u.sbox = t.sbox

/-! ## Vernam -/

/-- VN.XOR N, K (R141): IllegalCommand on a count out of range; KeyTooShort when K < N with no other effect; else bytes 0 to N-1 of DATA are XORed with PAD's,
the others stay, and nothing else changes. -/
def Obligations.VnXorResult : Prop :=
  (∀ (s : State) (n k : Count), s.err = false → ¬ (1 ≤ n.toNat ∧ n.toNat ≤ 8 ∧ k.toNat ≤ 8) →
    exec (.vnXor n k) s = .next (Spec.latched 1 s)) ∧
  ∀ (s : State) (n k : Count), s.err = false → 1 ≤ n.toNat → n.toNat ≤ 8 → k.toNat ≤ 8 →
    decode (BitVec.ofNat 32 (0x20 + 256 * n.toNat + 4096 * k.toNat)) = .ok (.vnXor n k) ∧
    (k.toNat < n.toNat → exec (.vnXor n k) s = .next (Spec.latched 3 s)) ∧
    (n.toNat ≤ k.toNat → ∃ t, exec (.vnXor n k) s = .next t ∧
      (∀ b < 8, Spec.dataByte t b = if b < n.toNat then Spec.dataByte s b ^^^ Spec.padByte s b else Spec.dataByte s b) ∧
      t = { s with data0 := t.data0, data1 := t.data1 })

/-- R142: two VN.XOR N, K with the same pad give DATA back, and with it the whole state. -/
def Obligations.VnXorIsSelfInverse : Prop :=
  ∀ (s : State) (n k : Count), s.err = false → 1 ≤ n.toNat → n.toNat ≤ k.toNat → k.toNat ≤ 8 →
    ∃ t, exec (.vnXor n k) s = .next t ∧ exec (.vnXor n k) t = .next s

/-- The Vernam cipher over whole streams, by the host's procedure on the engine (R140, R173; log entry 6): with a key
shorter than the input it fails before any transaction; else every output byte is the input byte XOR the key byte. -/
def Obligations.VernamStreamContract : Prop :=
  ∀ (input key : List Byte) (s : State), s.err = false →
    (key.length < input.length → vernamStream input key s = .next (.error .keyTooShort, s)) ∧
    (input.length ≤ key.length →
      ∃ t, vernamStream input key s = .next (.ok (List.zipWith (· ^^^ ·) input key), t))

/-! ## Host reports and key derivation -/

/-- An RC4 stream with the empty key is reported in the InvalidArgument class with engine code 2, whatever the input
(R150, R174, C1), and leaves the engine's error latched. The host's procedure is log entry 6. -/
def Obligations.EmptyKeyReportedAsInvalidArgument : Prop :=
  ∀ (input : List Byte) (s : State), s.err = false →
    ∃ t, rc4Stream [] input s = .next (.error (.invalidArgument 2), t) ∧ t.err = true ∧ t.ecode = 2

/-- deriveKey gives 16 bytes, the first of the hash of the passphrase's UTF-8 bytes, and they are packed big-endian into
TKEY0 to TKEY3 (R178, R172). The statement holds for every hash (log entry 7). -/
def Obligations.DerivedKeyIsHashPrefix : Prop :=
  ∀ (p : List Char) (s : State), (deriveKey p).length = 16 ∧
    (∀ n < 16, (deriveKey p)[n]? = (Config.passphraseHash (utf8Bytes p)).toList[n]?) ∧
    ∃ t, transactAll (loadDerivedKey p) s = .next t ∧
      ∀ n < 4, ∀ m < 4, (memRead (Spec.atOffset (0x018 + 4 * n)) t).extractLsb' (24 - 8 * m) 8 =
        (deriveKey p).getD (4 * n + m) 0

/-! ## The whole machine -/

/-- No command, and no dropped or illegal word, writes PAD, TKEY, RC4_KLEN, KEY or the host's side (R23, R25 to R28). -/
def Obligations.NoCommandWritesOperandRegisters : Prop :=
  ∀ (v : Word) (s t : State), execute v s = .next t →
    t.pad0 = s.pad0 ∧ t.pad1 = s.pad1 ∧ t.tkey0 = s.tkey0 ∧ t.tkey1 = s.tkey1 ∧ t.tkey2 = s.tkey2 ∧
      t.tkey3 = s.tkey3 ∧ t.klen = s.klen ∧ t.key = s.key ∧ t.pending = s.pending ∧ t.responses = s.responses

/-- The invariant holds after reset: S is a permutation, the latch is in order, and the unkeyed RC4 state is the reset
one (R29, R31, R33, R36, R151). -/
def Obligations.ResetMeetsInvariant : Prop := State.reset.Inv

/-- Every step keeps the invariant: S stays a permutation of 0 to 255 (R29), ECODE a code of R151 that is 0 exactly when
ERR is, DROP 0 when ERR is 0 (R33), and the RC4 state the reset one until a schedule succeeds (R31, R32). -/
def Obligations.StepKeepsInvariant : Prop :=
  ∀ s t : State, s.Inv → step s = .next t → t.Inv
end

