-- ==== Sys2Proof/Laws/State.lean ====
section
/-! SUPPORT. One lemma per field per update of State. Those of the three command bodies are not proved by rfl: rfl would
first compare the long loops in the other fields. -/

namespace Sys2Proof.Machine

/-! ## raiseError -/

@[simp] theorem raiseError_data0 (e : EngineError) (s : State) : (raiseError e s).data0 = s.data0 := rfl
@[simp] theorem raiseError_data1 (e : EngineError) (s : State) : (raiseError e s).data1 = s.data1 := rfl
@[simp] theorem raiseError_pad0 (e : EngineError) (s : State) : (raiseError e s).pad0 = s.pad0 := rfl
@[simp] theorem raiseError_pad1 (e : EngineError) (s : State) : (raiseError e s).pad1 = s.pad1 := rfl
@[simp] theorem raiseError_tkey0 (e : EngineError) (s : State) : (raiseError e s).tkey0 = s.tkey0 := rfl
@[simp] theorem raiseError_tkey1 (e : EngineError) (s : State) : (raiseError e s).tkey1 = s.tkey1 := rfl
@[simp] theorem raiseError_tkey2 (e : EngineError) (s : State) : (raiseError e s).tkey2 = s.tkey2 := rfl
@[simp] theorem raiseError_tkey3 (e : EngineError) (s : State) : (raiseError e s).tkey3 = s.tkey3 := rfl
@[simp] theorem raiseError_klen (e : EngineError) (s : State) : (raiseError e s).klen = s.klen := rfl
@[simp] theorem raiseError_key (e : EngineError) (s : State) : (raiseError e s).key = s.key := rfl
@[simp] theorem raiseError_sbox (e : EngineError) (s : State) : (raiseError e s).sbox = s.sbox := rfl
@[simp] theorem raiseError_i (e : EngineError) (s : State) : (raiseError e s).i = s.i := rfl
@[simp] theorem raiseError_j (e : EngineError) (s : State) : (raiseError e s).j = s.j := rfl
@[simp] theorem raiseError_err (e : EngineError) (s : State) : (raiseError e s).err = true := rfl
@[simp] theorem raiseError_drop (e : EngineError) (s : State) : (raiseError e s).drop = s.drop := rfl
@[simp] theorem raiseError_rc4rdy (e : EngineError) (s : State) : (raiseError e s).rc4rdy = s.rc4rdy := rfl
@[simp] theorem raiseError_ecode (e : EngineError) (s : State) : (raiseError e s).ecode = e.code := rfl
@[simp] theorem raiseError_pending (e : EngineError) (s : State) : (raiseError e s).pending = s.pending := rfl
@[simp] theorem raiseError_responses (e : EngineError) (s : State) : (raiseError e s).responses = s.responses := rfl

/-! ## clearError -/

@[simp] theorem clearError_data0 (s : State) : (clearError s).data0 = s.data0 := rfl
@[simp] theorem clearError_data1 (s : State) : (clearError s).data1 = s.data1 := rfl
@[simp] theorem clearError_pad0 (s : State) : (clearError s).pad0 = s.pad0 := rfl
@[simp] theorem clearError_pad1 (s : State) : (clearError s).pad1 = s.pad1 := rfl
@[simp] theorem clearError_tkey0 (s : State) : (clearError s).tkey0 = s.tkey0 := rfl
@[simp] theorem clearError_tkey1 (s : State) : (clearError s).tkey1 = s.tkey1 := rfl
@[simp] theorem clearError_tkey2 (s : State) : (clearError s).tkey2 = s.tkey2 := rfl
@[simp] theorem clearError_tkey3 (s : State) : (clearError s).tkey3 = s.tkey3 := rfl
@[simp] theorem clearError_klen (s : State) : (clearError s).klen = s.klen := rfl
@[simp] theorem clearError_key (s : State) : (clearError s).key = s.key := rfl
@[simp] theorem clearError_sbox (s : State) : (clearError s).sbox = s.sbox := rfl
@[simp] theorem clearError_i (s : State) : (clearError s).i = s.i := rfl
@[simp] theorem clearError_j (s : State) : (clearError s).j = s.j := rfl
@[simp] theorem clearError_err (s : State) : (clearError s).err = false := rfl
@[simp] theorem clearError_drop (s : State) : (clearError s).drop = false := rfl
@[simp] theorem clearError_rc4rdy (s : State) : (clearError s).rc4rdy = s.rc4rdy := rfl
@[simp] theorem clearError_ecode (s : State) : (clearError s).ecode = 0 := rfl
@[simp] theorem clearError_pending (s : State) : (clearError s).pending = s.pending := rfl
@[simp] theorem clearError_responses (s : State) : (clearError s).responses = s.responses := rfl

/-! ## dropCommand -/

@[simp] theorem dropCommand_data0 (s : State) : (dropCommand s).data0 = s.data0 := rfl
@[simp] theorem dropCommand_data1 (s : State) : (dropCommand s).data1 = s.data1 := rfl
@[simp] theorem dropCommand_pad0 (s : State) : (dropCommand s).pad0 = s.pad0 := rfl
@[simp] theorem dropCommand_pad1 (s : State) : (dropCommand s).pad1 = s.pad1 := rfl
@[simp] theorem dropCommand_tkey0 (s : State) : (dropCommand s).tkey0 = s.tkey0 := rfl
@[simp] theorem dropCommand_tkey1 (s : State) : (dropCommand s).tkey1 = s.tkey1 := rfl
@[simp] theorem dropCommand_tkey2 (s : State) : (dropCommand s).tkey2 = s.tkey2 := rfl
@[simp] theorem dropCommand_tkey3 (s : State) : (dropCommand s).tkey3 = s.tkey3 := rfl
@[simp] theorem dropCommand_klen (s : State) : (dropCommand s).klen = s.klen := rfl
@[simp] theorem dropCommand_key (s : State) : (dropCommand s).key = s.key := rfl
@[simp] theorem dropCommand_sbox (s : State) : (dropCommand s).sbox = s.sbox := rfl
@[simp] theorem dropCommand_i (s : State) : (dropCommand s).i = s.i := rfl
@[simp] theorem dropCommand_j (s : State) : (dropCommand s).j = s.j := rfl
@[simp] theorem dropCommand_err (s : State) : (dropCommand s).err = s.err := rfl
@[simp] theorem dropCommand_drop (s : State) : (dropCommand s).drop = true := rfl
@[simp] theorem dropCommand_rc4rdy (s : State) : (dropCommand s).rc4rdy = s.rc4rdy := rfl
@[simp] theorem dropCommand_ecode (s : State) : (dropCommand s).ecode = s.ecode := rfl
@[simp] theorem dropCommand_pending (s : State) : (dropCommand s).pending = s.pending := rfl
@[simp] theorem dropCommand_responses (s : State) : (dropCommand s).responses = s.responses := rfl

/-! ## setData -/

@[simp] theorem State.setData_data0 (s : State) (d : Block) : (s.setData d).data0 = d.extractLsb' 32 32 := rfl
@[simp] theorem State.setData_data1 (s : State) (d : Block) : (s.setData d).data1 = d.extractLsb' 0 32 := rfl
@[simp] theorem State.setData_pad0 (s : State) (d : Block) : (s.setData d).pad0 = s.pad0 := rfl
@[simp] theorem State.setData_pad1 (s : State) (d : Block) : (s.setData d).pad1 = s.pad1 := rfl
@[simp] theorem State.setData_tkey0 (s : State) (d : Block) : (s.setData d).tkey0 = s.tkey0 := rfl
@[simp] theorem State.setData_tkey1 (s : State) (d : Block) : (s.setData d).tkey1 = s.tkey1 := rfl
@[simp] theorem State.setData_tkey2 (s : State) (d : Block) : (s.setData d).tkey2 = s.tkey2 := rfl
@[simp] theorem State.setData_tkey3 (s : State) (d : Block) : (s.setData d).tkey3 = s.tkey3 := rfl
@[simp] theorem State.setData_klen (s : State) (d : Block) : (s.setData d).klen = s.klen := rfl
@[simp] theorem State.setData_key (s : State) (d : Block) : (s.setData d).key = s.key := rfl
@[simp] theorem State.setData_sbox (s : State) (d : Block) : (s.setData d).sbox = s.sbox := rfl
@[simp] theorem State.setData_i (s : State) (d : Block) : (s.setData d).i = s.i := rfl
@[simp] theorem State.setData_j (s : State) (d : Block) : (s.setData d).j = s.j := rfl
@[simp] theorem State.setData_err (s : State) (d : Block) : (s.setData d).err = s.err := rfl
@[simp] theorem State.setData_drop (s : State) (d : Block) : (s.setData d).drop = s.drop := rfl
@[simp] theorem State.setData_rc4rdy (s : State) (d : Block) : (s.setData d).rc4rdy = s.rc4rdy := rfl
@[simp] theorem State.setData_ecode (s : State) (d : Block) : (s.setData d).ecode = s.ecode := rfl
@[simp] theorem State.setData_pending (s : State) (d : Block) : (s.setData d).pending = s.pending := rfl
@[simp] theorem State.setData_responses (s : State) (d : Block) : (s.setData d).responses = s.responses := rfl

/-! ## rc4Advance -/

@[simp] theorem rc4Advance_data0 (s : State) : (rc4Advance s).data0 = s.data0 := rfl
@[simp] theorem rc4Advance_data1 (s : State) : (rc4Advance s).data1 = s.data1 := rfl
@[simp] theorem rc4Advance_pad0 (s : State) : (rc4Advance s).pad0 = s.pad0 := rfl
@[simp] theorem rc4Advance_pad1 (s : State) : (rc4Advance s).pad1 = s.pad1 := rfl
@[simp] theorem rc4Advance_tkey0 (s : State) : (rc4Advance s).tkey0 = s.tkey0 := rfl
@[simp] theorem rc4Advance_tkey1 (s : State) : (rc4Advance s).tkey1 = s.tkey1 := rfl
@[simp] theorem rc4Advance_tkey2 (s : State) : (rc4Advance s).tkey2 = s.tkey2 := rfl
@[simp] theorem rc4Advance_tkey3 (s : State) : (rc4Advance s).tkey3 = s.tkey3 := rfl
@[simp] theorem rc4Advance_klen (s : State) : (rc4Advance s).klen = s.klen := rfl
@[simp] theorem rc4Advance_key (s : State) : (rc4Advance s).key = s.key := rfl
@[simp] theorem rc4Advance_sbox (s : State) :
    (rc4Advance s).sbox = swapBytes s.sbox (s.i + 1) (s.j + byteAt s.sbox (s.i + 1)) := rfl
@[simp] theorem rc4Advance_i (s : State) : (rc4Advance s).i = s.i + 1 := rfl
@[simp] theorem rc4Advance_j (s : State) : (rc4Advance s).j = s.j + byteAt s.sbox (s.i + 1) := rfl
@[simp] theorem rc4Advance_err (s : State) : (rc4Advance s).err = s.err := rfl
@[simp] theorem rc4Advance_drop (s : State) : (rc4Advance s).drop = s.drop := rfl
@[simp] theorem rc4Advance_rc4rdy (s : State) : (rc4Advance s).rc4rdy = s.rc4rdy := rfl
@[simp] theorem rc4Advance_ecode (s : State) : (rc4Advance s).ecode = s.ecode := rfl
@[simp] theorem rc4Advance_pending (s : State) : (rc4Advance s).pending = s.pending := rfl
@[simp] theorem rc4Advance_responses (s : State) : (rc4Advance s).responses = s.responses := rfl

/-! ## respond -/

@[simp] theorem respond_data0 (r : Response) (s : State) : (respond r s).data0 = s.data0 := rfl
@[simp] theorem respond_data1 (r : Response) (s : State) : (respond r s).data1 = s.data1 := rfl
@[simp] theorem respond_pad0 (r : Response) (s : State) : (respond r s).pad0 = s.pad0 := rfl
@[simp] theorem respond_pad1 (r : Response) (s : State) : (respond r s).pad1 = s.pad1 := rfl
@[simp] theorem respond_tkey0 (r : Response) (s : State) : (respond r s).tkey0 = s.tkey0 := rfl
@[simp] theorem respond_tkey1 (r : Response) (s : State) : (respond r s).tkey1 = s.tkey1 := rfl
@[simp] theorem respond_tkey2 (r : Response) (s : State) : (respond r s).tkey2 = s.tkey2 := rfl
@[simp] theorem respond_tkey3 (r : Response) (s : State) : (respond r s).tkey3 = s.tkey3 := rfl
@[simp] theorem respond_klen (r : Response) (s : State) : (respond r s).klen = s.klen := rfl
@[simp] theorem respond_key (r : Response) (s : State) : (respond r s).key = s.key := rfl
@[simp] theorem respond_sbox (r : Response) (s : State) : (respond r s).sbox = s.sbox := rfl
@[simp] theorem respond_i (r : Response) (s : State) : (respond r s).i = s.i := rfl
@[simp] theorem respond_j (r : Response) (s : State) : (respond r s).j = s.j := rfl
@[simp] theorem respond_err (r : Response) (s : State) : (respond r s).err = s.err := rfl
@[simp] theorem respond_drop (r : Response) (s : State) : (respond r s).drop = s.drop := rfl
@[simp] theorem respond_rc4rdy (r : Response) (s : State) : (respond r s).rc4rdy = s.rc4rdy := rfl
@[simp] theorem respond_ecode (r : Response) (s : State) : (respond r s).ecode = s.ecode := rfl
@[simp] theorem respond_pending (r : Response) (s : State) : (respond r s).pending = s.pending := rfl
@[simp] theorem respond_responses (r : Response) (s : State) : (respond r s).responses = r :: s.responses := rfl

/-! ## placeCommand -/

@[simp] theorem placeCommand_data0 (v : Word) (s : State) : (placeCommand v s).data0 = s.data0 := rfl
@[simp] theorem placeCommand_data1 (v : Word) (s : State) : (placeCommand v s).data1 = s.data1 := rfl
@[simp] theorem placeCommand_pad0 (v : Word) (s : State) : (placeCommand v s).pad0 = s.pad0 := rfl
@[simp] theorem placeCommand_pad1 (v : Word) (s : State) : (placeCommand v s).pad1 = s.pad1 := rfl
@[simp] theorem placeCommand_tkey0 (v : Word) (s : State) : (placeCommand v s).tkey0 = s.tkey0 := rfl
@[simp] theorem placeCommand_tkey1 (v : Word) (s : State) : (placeCommand v s).tkey1 = s.tkey1 := rfl
@[simp] theorem placeCommand_tkey2 (v : Word) (s : State) : (placeCommand v s).tkey2 = s.tkey2 := rfl
@[simp] theorem placeCommand_tkey3 (v : Word) (s : State) : (placeCommand v s).tkey3 = s.tkey3 := rfl
@[simp] theorem placeCommand_klen (v : Word) (s : State) : (placeCommand v s).klen = s.klen := rfl
@[simp] theorem placeCommand_key (v : Word) (s : State) : (placeCommand v s).key = s.key := rfl
@[simp] theorem placeCommand_sbox (v : Word) (s : State) : (placeCommand v s).sbox = s.sbox := rfl
@[simp] theorem placeCommand_i (v : Word) (s : State) : (placeCommand v s).i = s.i := rfl
@[simp] theorem placeCommand_j (v : Word) (s : State) : (placeCommand v s).j = s.j := rfl
@[simp] theorem placeCommand_err (v : Word) (s : State) : (placeCommand v s).err = s.err := rfl
@[simp] theorem placeCommand_drop (v : Word) (s : State) : (placeCommand v s).drop = s.drop := rfl
@[simp] theorem placeCommand_rc4rdy (v : Word) (s : State) : (placeCommand v s).rc4rdy = s.rc4rdy := rfl
@[simp] theorem placeCommand_ecode (v : Word) (s : State) : (placeCommand v s).ecode = s.ecode := rfl
@[simp] theorem placeCommand_pending (v : Word) (s : State) :
    (placeCommand v s).pending = .bus (.write cmdIndex v) :: s.pending := rfl
@[simp] theorem placeCommand_responses (v : Word) (s : State) : (placeCommand v s).responses = s.responses := rfl

/-! ## resetEngine -/

@[simp] theorem resetEngine_data0 (s : State) : (resetEngine s).data0 = State.reset.data0 := rfl
@[simp] theorem resetEngine_data1 (s : State) : (resetEngine s).data1 = State.reset.data1 := rfl
@[simp] theorem resetEngine_pad0 (s : State) : (resetEngine s).pad0 = State.reset.pad0 := rfl
@[simp] theorem resetEngine_pad1 (s : State) : (resetEngine s).pad1 = State.reset.pad1 := rfl
@[simp] theorem resetEngine_tkey0 (s : State) : (resetEngine s).tkey0 = State.reset.tkey0 := rfl
@[simp] theorem resetEngine_tkey1 (s : State) : (resetEngine s).tkey1 = State.reset.tkey1 := rfl
@[simp] theorem resetEngine_tkey2 (s : State) : (resetEngine s).tkey2 = State.reset.tkey2 := rfl
@[simp] theorem resetEngine_tkey3 (s : State) : (resetEngine s).tkey3 = State.reset.tkey3 := rfl
@[simp] theorem resetEngine_klen (s : State) : (resetEngine s).klen = State.reset.klen := rfl
@[simp] theorem resetEngine_key (s : State) : (resetEngine s).key = State.reset.key := rfl
@[simp] theorem resetEngine_sbox (s : State) : (resetEngine s).sbox = State.reset.sbox := rfl
@[simp] theorem resetEngine_i (s : State) : (resetEngine s).i = State.reset.i := rfl
@[simp] theorem resetEngine_j (s : State) : (resetEngine s).j = State.reset.j := rfl
@[simp] theorem resetEngine_err (s : State) : (resetEngine s).err = State.reset.err := rfl
@[simp] theorem resetEngine_drop (s : State) : (resetEngine s).drop = State.reset.drop := rfl
@[simp] theorem resetEngine_rc4rdy (s : State) : (resetEngine s).rc4rdy = State.reset.rc4rdy := rfl
@[simp] theorem resetEngine_ecode (s : State) : (resetEngine s).ecode = State.reset.ecode := rfl
@[simp] theorem resetEngine_pending (s : State) : (resetEngine s).pending = s.pending := rfl
@[simp] theorem resetEngine_responses (s : State) : (resetEngine s).responses = s.responses := rfl

/-! ## rc4KsaBody -/

@[simp] theorem rc4KsaBody_data0 (s : State) : (rc4KsaBody s).data0 = s.data0 := by simp only [rc4KsaBody]
@[simp] theorem rc4KsaBody_data1 (s : State) : (rc4KsaBody s).data1 = s.data1 := by simp only [rc4KsaBody]
@[simp] theorem rc4KsaBody_pad0 (s : State) : (rc4KsaBody s).pad0 = s.pad0 := by simp only [rc4KsaBody]
@[simp] theorem rc4KsaBody_pad1 (s : State) : (rc4KsaBody s).pad1 = s.pad1 := by simp only [rc4KsaBody]
@[simp] theorem rc4KsaBody_tkey0 (s : State) : (rc4KsaBody s).tkey0 = s.tkey0 := by simp only [rc4KsaBody]
@[simp] theorem rc4KsaBody_tkey1 (s : State) : (rc4KsaBody s).tkey1 = s.tkey1 := by simp only [rc4KsaBody]
@[simp] theorem rc4KsaBody_tkey2 (s : State) : (rc4KsaBody s).tkey2 = s.tkey2 := by simp only [rc4KsaBody]
@[simp] theorem rc4KsaBody_tkey3 (s : State) : (rc4KsaBody s).tkey3 = s.tkey3 := by simp only [rc4KsaBody]
@[simp] theorem rc4KsaBody_klen (s : State) : (rc4KsaBody s).klen = s.klen := by simp only [rc4KsaBody]
@[simp] theorem rc4KsaBody_key (s : State) : (rc4KsaBody s).key = s.key := by simp only [rc4KsaBody]
@[simp] theorem rc4KsaBody_sbox (s : State) :
    (rc4KsaBody s).sbox = ksa s.key s.klen.toNat := by simp only [rc4KsaBody]
@[simp] theorem rc4KsaBody_i (s : State) : (rc4KsaBody s).i = 0 := by simp only [rc4KsaBody]
@[simp] theorem rc4KsaBody_j (s : State) : (rc4KsaBody s).j = 0 := by simp only [rc4KsaBody]
@[simp] theorem rc4KsaBody_err (s : State) : (rc4KsaBody s).err = s.err := by simp only [rc4KsaBody]
@[simp] theorem rc4KsaBody_drop (s : State) : (rc4KsaBody s).drop = s.drop := by simp only [rc4KsaBody]
@[simp] theorem rc4KsaBody_rc4rdy (s : State) : (rc4KsaBody s).rc4rdy = true := by simp only [rc4KsaBody]
@[simp] theorem rc4KsaBody_ecode (s : State) : (rc4KsaBody s).ecode = s.ecode := by simp only [rc4KsaBody]
@[simp] theorem rc4KsaBody_pending (s : State) : (rc4KsaBody s).pending = s.pending := by simp only [rc4KsaBody]
@[simp] theorem rc4KsaBody_responses (s : State) : (rc4KsaBody s).responses = s.responses := by simp only [rc4KsaBody]

/-! ## teaEncBody -/

@[simp] theorem teaEncBody_data0 (s : State) : (teaEncBody s).data0 = (teaEncrypt s).v0 := by simp only [teaEncBody]
@[simp] theorem teaEncBody_data1 (s : State) : (teaEncBody s).data1 = (teaEncrypt s).v1 := by simp only [teaEncBody]
@[simp] theorem teaEncBody_pad0 (s : State) : (teaEncBody s).pad0 = s.pad0 := by simp only [teaEncBody]
@[simp] theorem teaEncBody_pad1 (s : State) : (teaEncBody s).pad1 = s.pad1 := by simp only [teaEncBody]
@[simp] theorem teaEncBody_tkey0 (s : State) : (teaEncBody s).tkey0 = s.tkey0 := by simp only [teaEncBody]
@[simp] theorem teaEncBody_tkey1 (s : State) : (teaEncBody s).tkey1 = s.tkey1 := by simp only [teaEncBody]
@[simp] theorem teaEncBody_tkey2 (s : State) : (teaEncBody s).tkey2 = s.tkey2 := by simp only [teaEncBody]
@[simp] theorem teaEncBody_tkey3 (s : State) : (teaEncBody s).tkey3 = s.tkey3 := by simp only [teaEncBody]
@[simp] theorem teaEncBody_klen (s : State) : (teaEncBody s).klen = s.klen := by simp only [teaEncBody]
@[simp] theorem teaEncBody_key (s : State) : (teaEncBody s).key = s.key := by simp only [teaEncBody]
@[simp] theorem teaEncBody_sbox (s : State) : (teaEncBody s).sbox = s.sbox := by simp only [teaEncBody]
@[simp] theorem teaEncBody_i (s : State) : (teaEncBody s).i = s.i := by simp only [teaEncBody]
@[simp] theorem teaEncBody_j (s : State) : (teaEncBody s).j = s.j := by simp only [teaEncBody]
@[simp] theorem teaEncBody_err (s : State) : (teaEncBody s).err = s.err := by simp only [teaEncBody]
@[simp] theorem teaEncBody_drop (s : State) : (teaEncBody s).drop = s.drop := by simp only [teaEncBody]
@[simp] theorem teaEncBody_rc4rdy (s : State) : (teaEncBody s).rc4rdy = s.rc4rdy := by simp only [teaEncBody]
@[simp] theorem teaEncBody_ecode (s : State) : (teaEncBody s).ecode = s.ecode := by simp only [teaEncBody]
@[simp] theorem teaEncBody_pending (s : State) : (teaEncBody s).pending = s.pending := by simp only [teaEncBody]
@[simp] theorem teaEncBody_responses (s : State) : (teaEncBody s).responses = s.responses := by simp only [teaEncBody]

/-! ## teaDecBody -/

@[simp] theorem teaDecBody_data0 (s : State) : (teaDecBody s).data0 = (teaDecrypt s).v0 := by simp only [teaDecBody]
@[simp] theorem teaDecBody_data1 (s : State) : (teaDecBody s).data1 = (teaDecrypt s).v1 := by simp only [teaDecBody]
@[simp] theorem teaDecBody_pad0 (s : State) : (teaDecBody s).pad0 = s.pad0 := by simp only [teaDecBody]
@[simp] theorem teaDecBody_pad1 (s : State) : (teaDecBody s).pad1 = s.pad1 := by simp only [teaDecBody]
@[simp] theorem teaDecBody_tkey0 (s : State) : (teaDecBody s).tkey0 = s.tkey0 := by simp only [teaDecBody]
@[simp] theorem teaDecBody_tkey1 (s : State) : (teaDecBody s).tkey1 = s.tkey1 := by simp only [teaDecBody]
@[simp] theorem teaDecBody_tkey2 (s : State) : (teaDecBody s).tkey2 = s.tkey2 := by simp only [teaDecBody]
@[simp] theorem teaDecBody_tkey3 (s : State) : (teaDecBody s).tkey3 = s.tkey3 := by simp only [teaDecBody]
@[simp] theorem teaDecBody_klen (s : State) : (teaDecBody s).klen = s.klen := by simp only [teaDecBody]
@[simp] theorem teaDecBody_key (s : State) : (teaDecBody s).key = s.key := by simp only [teaDecBody]
@[simp] theorem teaDecBody_sbox (s : State) : (teaDecBody s).sbox = s.sbox := by simp only [teaDecBody]
@[simp] theorem teaDecBody_i (s : State) : (teaDecBody s).i = s.i := by simp only [teaDecBody]
@[simp] theorem teaDecBody_j (s : State) : (teaDecBody s).j = s.j := by simp only [teaDecBody]
@[simp] theorem teaDecBody_err (s : State) : (teaDecBody s).err = s.err := by simp only [teaDecBody]
@[simp] theorem teaDecBody_drop (s : State) : (teaDecBody s).drop = s.drop := by simp only [teaDecBody]
@[simp] theorem teaDecBody_rc4rdy (s : State) : (teaDecBody s).rc4rdy = s.rc4rdy := by simp only [teaDecBody]
@[simp] theorem teaDecBody_ecode (s : State) : (teaDecBody s).ecode = s.ecode := by simp only [teaDecBody]
@[simp] theorem teaDecBody_pending (s : State) : (teaDecBody s).pending = s.pending := by simp only [teaDecBody]
@[simp] theorem teaDecBody_responses (s : State) : (teaDecBody s).responses = s.responses := by simp only [teaDecBody]

end Sys2Proof.Machine
end

