-- ==== Sys2Proof/Laws/Ops.lean ====
section
/-! SUPPORT. What the shared operations can do: sequencing, loops, the 256-byte arrays, the drop rule and the checks. -/

namespace Sys2Proof.Machine

/-! ## Sequencing -/

@[simp] theorem onNext_next {α β : Type} (a : α) (f : α → Result β) : onNext (.next a) f = f a := rfl
@[simp] theorem onNext_fault {α β : Type} (e : Fault) (f : α → Result β) : onNext (.fault e) f = .fault e := rfl
@[simp] theorem onNext_refused {α β : Type} (e : Refusal) (f : α → Result β) : onNext (.refused e) f = .refused e := rfl

/-- A sequence answers a next value exactly where both its parts do. -/
theorem onNext_eq_next {α β : Type} {r : Result α} {f : α → Result β} {b : β} :
    onNext r f = .next b ↔ ∃ a, r = .next a ∧ f a = .next b := by
  cases r <;> simp

/-! ## Loops -/

@[simp] theorem forUpTo_zero {α : Type} (f : Nat → α → α) (a : α) : forUpTo 0 f a = a := rfl
theorem forUpTo_succ {α : Type} (n : Nat) (f : Nat → α → α) (a : α) :
    forUpTo (n + 1) f a = f n (forUpTo n f a) := rfl

/-- What holds before a loop and is kept by every iteration holds after it. -/
theorem forUpTo_keeps {α : Type} (P : α → Prop) (f : Nat → α → α) (h : ∀ b a, P a → P (f b a)) (n : Nat) (a : α)
    (ha : P a) : P (forUpTo n f a) := by
  induction n with
  | zero => exact ha
  | succ n ih => exact h n _ ih

/-- A quantity no iteration changes is unchanged by the loop. -/
theorem forUpTo_proj {α β : Type} (g : α → β) (f : Nat → α → α) (h : ∀ b a, g (f b a) = g a) (n : Nat) (a : α) :
    g (forUpTo n f a) = g a :=
  forUpTo_keeps (fun x => g x = g a) f (fun b x hx => (h b x).trans hx) n a rfl

/-- Two loops whose iterations keep a relation end related. -/
theorem forUpTo_related {α β : Type} (R : Nat → α → β → Prop) (f : Nat → α → α) (g : Nat → β → β) (n : Nat)
    (h : ∀ b < n, ∀ x y, R b x y → R (b + 1) (f b x) (g b y)) (a : α) (c : β) (h0 : R 0 a c) :
    R n (forUpTo n f a) (forUpTo n g c) := by
  induction n with
  | zero => exact h0
  | succ n ih => exact h n (Nat.lt_succ_self n) _ _ (ih fun b hb => h b (Nat.lt_succ_of_lt hb))

/-! ## 256-byte arrays -/

theorem byteAt_identityBox (x : Byte) : byteAt identityBox x = x := by
  have h := x.isLt
  simp only [byteAt, identityBox, Vector.getElem_mk, List.getElem_toArray, List.getElem_map, List.getElem_range]
  simp

theorem byteAt_setByteAt (a : Bytes256) (x v y : Byte) :
    byteAt (setByteAt a x v) y = if y = x then v else byteAt a y := by
  simp only [byteAt, setByteAt, Vector.getElem_set, BitVec.toNat_inj, eq_comm (a := x)]

theorem byteAt_swapBytes (a : Bytes256) (x y k : Byte) :
    byteAt (swapBytes a x y) k = if k = x then byteAt a y else if k = y then byteAt a x else byteAt a k := by
  simp only [byteAt, swapBytes, Vector.getElem_swap, BitVec.toNat_inj]

/-- Two arrays with the same bytes are the same array. -/
theorem bytes256_ext {a b : Bytes256} (h : ∀ x, byteAt a x = byteAt b x) : a = b := by
  apply Vector.ext
  intro n hn
  have := h (BitVec.ofNat 8 n)
  simpa only [byteAt, BitVec.toNat_ofNat, Nat.mod_eq_of_lt (show n < 2 ^ 8 from hn)] using this

/-- A swap keeps a permutation (41_rc4.md R120, R121: every write of S is a swap or the identity fill). -/
theorem isPermutation_swapBytes {a : Bytes256} (h : IsPermutation a) (x y : Byte) :
    IsPermutation (swapBytes a x y) := by
  refine List.Perm.trans ?_ h
  exact (Array.swap_perm (xs := a.toArray) (i := x.toNat) (j := y.toNat)
    (by simpa using x.isLt) (by simpa using y.isLt)).toList

theorem isPermutation_identityBox : IsPermutation identityBox := List.Perm.refl _

/-! ## Issuing a command -/

theorem issue_dropped {s : State} (h : s.err = true) (body : State → State) : issue body s = .next (dropCommand s) := by
  simp [issue, h]

theorem issue_runs {s : State} (h : s.err = false) (body : State → State) : issue body s = .next (body s) := by
  simp [issue, h]

/-- Issuing a command always answers a next state: the dropped state, or the body's. -/
theorem issue_cases (body : State → State) (s : State) :
    (s.err = true ∧ issue body s = .next (dropCommand s)) ∨ (s.err = false ∧ issue body s = .next (body s)) := by
  cases h : s.err
  · exact .inr ⟨rfl, issue_runs h body⟩
  · exact .inl ⟨rfl, issue_dropped h body⟩

theorem checked_ok {ok : Bool} (h : ok = true) (e : EngineError) (body : State → State) (s : State) :
    checked ok e body s = body s := by simp [checked, h]

theorem checked_fails {ok : Bool} (h : ok = false) (e : EngineError) (body : State → State) (s : State) :
    checked ok e body s = raiseError e s := by simp [checked, h]

end Sys2Proof.Machine
end

