-- ==== Sys2Proof/Laws/Operands.lean ====
section
/-! SUPPORT. The byte view and the word view of the buffers and arrays (10_state.md R24, R27, R29). -/

namespace Sys2Proof.Machine

/-- A bit of a buffer made of two words (R24). -/
theorem getLsbD_words (x y : Word) (p : Nat) :
    (x ++ y : Block).getLsbD p = if p < 32 then y.getLsbD p else x.getLsbD (p - 32) := by
  have h := BitVec.getLsbD_append (x := x) (y := y) (i := p)
  simpa using h

/-- A bit of a word made of four bytes (R27). -/
theorem getLsbD_bytes (a b c d : Byte) (p : Nat) :
    (a ++ b ++ c ++ d : Word).getLsbD p =
      if p < 8 then d.getLsbD p else if p < 16 then c.getLsbD (p - 8)
      else if p < 24 then b.getLsbD (p - 16) else a.getLsbD (p - 24) := by
  have h := BitVec.getLsbD_append (x := a ++ b ++ c) (y := d) (i := p)
  have h' := BitVec.getLsbD_append (x := a ++ b) (y := c) (i := p - 8)
  have h'' := BitVec.getLsbD_append (x := a) (y := b) (i := p - 8 - 8)
  refine h.trans ?_
  rw [h', h'']
  by_cases h1 : p < 8
  · simp [h1]
  rw [if_neg h1, if_neg h1]
  by_cases h2 : p < 16
  · rw [if_pos h2, if_pos (by omega)]
  rw [if_neg h2, if_neg (by omega)]
  by_cases h3 : p < 24
  · rw [if_pos h3, if_pos (by omega), (by omega : p - 8 - 8 = p - 16)]
  · rw [if_neg h3, if_neg (by omega), (by omega : p - 8 - 8 - 8 = p - 24)]

/-- A byte write, bit by bit (R24). -/
theorem getLsbD_setByte (buf : Block) {b : Nat} (hb : b < 8) (x : Byte) (p : Nat) :
    (setByte buf b x).getLsbD p =
      if 56 - 8 * b ≤ p ∧ p ≤ 63 - 8 * b then x.getLsbD (p - (56 - 8 * b)) else buf.getLsbD p := by
  have h255 : ∀ q, (0xFF#64).getLsbD q = decide (q < 8) := by
    intro q
    rcases Nat.lt_or_ge q 64 with h | h
    · revert q; decide
    · simp [BitVec.getLsbD_of_ge _ _ h]; omega
  by_cases hp : p < 64
  · simp only [setByte, BitVec.getLsbD_or, BitVec.getLsbD_and, BitVec.getLsbD_not, BitVec.getLsbD_shiftLeft, h255,
      BitVec.getLsbD_setWidth, hp, decide_true, Bool.true_and]
    by_cases h1 : 56 - 8 * b ≤ p
    · by_cases h2 : p ≤ 63 - 8 * b
      · have h3 : p - (56 - 8 * b) < 8 := by omega
        have h4 : ¬ p < 56 - 8 * b := by omega
        have h5 : p - (56 - 8 * b) < 64 := by omega
        simp [h1, h2, h3, h4, h5]
      · have h3 : ¬ p - (56 - 8 * b) < 8 := by omega
        have h4 : ¬ p < 56 - 8 * b := by omega
        simp [h2, h3, h4, BitVec.getLsbD_of_ge x _ (by omega : 8 ≤ p - (56 - 8 * b))]
    · have h4 : p < 56 - 8 * b := by omega
      simp [h1, h4]
  · have : ¬ (56 - 8 * b ≤ p ∧ p ≤ 63 - 8 * b) := by omega
    rw [if_neg this, BitVec.getLsbD_of_ge _ p (by omega), BitVec.getLsbD_of_ge _ p (by omega)]

/-- Reading a byte after writing one (R24). -/
theorem getByte_setByte (buf : Block) {b c : Nat} (hb : b < 8) (hc : c < 8) (x : Byte) :
    getByte (setByte buf b x) c = if c = b then x else getByte buf c := by
  apply BitVec.eq_of_getLsbD_eq
  intro q hq
  simp only [getByte, BitVec.getLsbD_extractLsb', hq, decide_true, Bool.true_and, getLsbD_setByte buf hb]
  by_cases h : c = b
  · subst h
    have h1 : 56 - 8 * c ≤ 56 - 8 * c + q ∧ 56 - 8 * c + q ≤ 63 - 8 * c := by omega
    simp [h1]
  · have h1 : ¬ (56 - 8 * b ≤ 56 - 8 * c + q ∧ 56 - 8 * c + q ≤ 63 - 8 * b) := by omega
    rw [if_neg h1, if_neg h, BitVec.getLsbD_extractLsb']
    simp [hq]

/-- Two buffers with the same eight bytes are the same buffer. -/
theorem block_ext {x y : Block} (h : ∀ b < 8, getByte x b = getByte y b) : x = y := by
  apply BitVec.eq_of_getLsbD_eq
  intro p hp
  have h1 := congrArg (fun z => z.getLsbD (p % 8)) (h (7 - p / 8) (by omega))
  have h2 : p % 8 < 8 := Nat.mod_lt _ (by omega)
  have h3 : 56 - 8 * (7 - p / 8) + p % 8 = p := by omega
  simpa [getByte, BitVec.getLsbD_extractLsb', h2, h3] using h1

/-- The byte view of two words (R24). -/
theorem getByte_append (buf0 buf1 : Word) {b : Nat} (hb : b < 8) : getByte (buf0 ++ buf1) b =
    if b < 4 then buf0.extractLsb' (24 - 8 * b) 8 else buf1.extractLsb' (24 - 8 * (b - 4)) 8 := by
  apply BitVec.eq_of_getLsbD_eq
  intro q hq
  simp only [getByte, BitVec.getLsbD_extractLsb', hq, decide_true, Bool.true_and, getLsbD_words]
  by_cases h : b < 4
  · rw [if_neg (by omega), if_pos h, BitVec.getLsbD_extractLsb', (by omega : 56 - 8 * b + q - 32 = 24 - 8 * b + q)]
    simp [hq]
  · rw [if_pos (by omega), if_neg h, BitVec.getLsbD_extractLsb', (by omega : 56 - 8 * b + q = 24 - 8 * (b - 4) + q)]
    simp [hq]

@[simp] theorem State.setData_data (s : State) (d : Block) : (s.setData d).data = d := by
  apply BitVec.eq_of_getLsbD_eq
  intro p hp
  simp only [State.data, State.setData, getLsbD_words, BitVec.getLsbD_extractLsb']
  by_cases h : p < 32
  · simp [h]
  · have h1 : p - 32 < 32 := by omega
    have h2 : 32 + (p - 32) = p := by omega
    simp [h, h1, h2]

@[simp] theorem State.setData_pad (s : State) (d : Block) : (s.setData d).pad = s.pad := rfl

/-- Writing DATA with what it holds changes nothing. -/
@[simp] theorem State.setData_self (s : State) : s.setData s.data = s := by
  have h0 : s.data.extractLsb' 32 32 = s.data0 := by
    apply BitVec.eq_of_getLsbD_eq
    intro p hp
    rw [BitVec.getLsbD_extractLsb', State.data, getLsbD_words]
    simp [hp]
  have h1 : s.data.extractLsb' 0 32 = s.data1 := by
    apply BitVec.eq_of_getLsbD_eq
    intro p hp
    rw [BitVec.getLsbD_extractLsb', State.data, getLsbD_words]
    simp [hp]
  simp only [State.setData, h0, h1]

/-- Two states that differ in DATA at most are equal once DATA agrees byte by byte. -/
theorem State.setData_setData (s : State) (d e : Block) : (s.setData d).setData e = s.setData e := rfl

/-- The index of byte m of array word w, as a number (R27). -/
theorem byteIndex_toNat (w : BitVec 6) {m : Nat} (hm : m < 4) : (byteIndex w m).toNat = 4 * w.toNat + m := by
  have := w.isLt
  simp only [byteIndex, BitVec.toNat_ofNat]
  omega

/-- Different places have different indices (R27). -/
theorem byteIndex_inj {w u : BitVec 6} {m n : Nat} (hm : m < 4) (hn : n < 4) :
    byteIndex w m = byteIndex u n ↔ w = u ∧ m = n := by
  rw [← BitVec.toNat_inj, byteIndex_toNat w hm, byteIndex_toNat u hn, ← BitVec.toNat_inj]
  omega

/-- Byte m of an array word (R27, R29). -/
theorem wordByte_arrayWord (a : Bytes256) (w : BitVec 6) {m : Nat} (hm : m < 4) :
    wordByte (arrayWord a w) m = byteAt a (byteIndex w m) := by
  apply BitVec.eq_of_getLsbD_eq
  intro q hq
  have hm' : m = 0 ∨ m = 1 ∨ m = 2 ∨ m = 3 := by omega
  simp only [wordByte, arrayWord, BitVec.getLsbD_extractLsb', hq, decide_true, Bool.true_and, getLsbD_bytes]
  rcases hm' with h | h | h | h <;> subst h
  · rw [if_neg (by omega), if_neg (by omega), if_neg (by omega), (by omega : 24 - 8 * 0 + q - 24 = q)]
  · rw [if_neg (by omega), if_neg (by omega), if_pos (by omega), (by omega : 24 - 8 * 1 + q - 16 = q)]
  · rw [if_neg (by omega), if_pos (by omega), (by omega : 24 - 8 * 2 + q - 8 = q)]
  · rw [if_pos (by omega), (by omega : 24 - 8 * 3 + q = q)]

/-- Two words with the same four bytes are the same word. -/
theorem word_ext {x y : Word} (h : ∀ m < 4, wordByte x m = wordByte y m) : x = y := by
  apply BitVec.eq_of_getLsbD_eq
  intro p hp
  have h1 := congrArg (fun z => z.getLsbD (p % 8)) (h (3 - p / 8) (by omega))
  have h2 : p % 8 < 8 := Nat.mod_lt _ (by omega)
  have h3 : 24 - 8 * (3 - p / 8) + p % 8 = p := by omega
  simpa [wordByte, BitVec.getLsbD_extractLsb', h2, h3] using h1

/-- What a write of an array word leaves at a byte (20_memory.md R52). -/
theorem byteAt_setArrayWord (a : Bytes256) (w : BitVec 6) (v : Word) (u : BitVec 6) {m : Nat} (hm : m < 4) :
    byteAt (setArrayWord a w v) (byteIndex u m) = if u = w then wordByte v m else byteAt a (byteIndex u m) := by
  have hm' : m = 0 ∨ m = 1 ∨ m = 2 ∨ m = 3 := by omega
  simp only [setArrayWord, forUpTo, byteAt_setByteAt, byteIndex_inj, hm,
    (by omega : 0 < 4), (by omega : 1 < 4), (by omega : 2 < 4), (by omega : 3 < 4)]
  rcases hm' with h | h | h | h <;> subst h <;> simp

/-- Reading an array word after writing one. -/
theorem arrayWord_setArrayWord (a : Bytes256) (w : BitVec 6) (v : Word) (u : BitVec 6) :
    arrayWord (setArrayWord a w v) u = if u = w then v else arrayWord a u := by
  apply word_ext
  intro m hm
  rw [wordByte_arrayWord _ _ hm, byteAt_setArrayWord _ _ _ _ hm]
  split
  · rfl
  · rw [wordByte_arrayWord _ _ hm]

end Sys2Proof.Machine
end

