-- ==== Sys2Proof/Laws/Commands.lean ====
section
/-! SUPPORT. What each command can do, said once: its outcome as a case list, and what its loop leaves alone. -/

namespace Sys2Proof.Machine

/-! ## The loops of the stream commands -/

/-- Fields RC4.PRGA's and RC4.XOR's loops leave alone (10_state.md R25). -/
def sameButStream (s t : State) : Prop :=
  t = { s with data0 := t.data0, data1 := t.data1, sbox := t.sbox, i := t.i, j := t.j }

/-- Fields VN.XOR's loop leaves alone (10_state.md R25). -/
def sameButData (s t : State) : Prop := t = { s with data0 := t.data0, data1 := t.data1 }

theorem rc4PrgaLoop_frame (n : Nat) (s : State) : sameButStream s (forUpTo n rc4PrgaByte s) := by
  apply forUpTo_keeps (sameButStream s) _ _ n s rfl
  intro b a h
  unfold sameButStream at h ⊢
  rw [h]
  rfl

theorem rc4XorLoop_frame (n : Nat) (s : State) : sameButStream s (forUpTo n rc4XorByte s) := by
  apply forUpTo_keeps (sameButStream s) _ _ n s rfl
  intro b a h
  unfold sameButStream at h ⊢
  rw [h]
  rfl

theorem vnXorLoop_frame (n : Nat) (s : State) : sameButData s (forUpTo n vnXorByte s) := by
  apply forUpTo_keeps (sameButData s) _ _ n s rfl
  intro b a h
  unfold sameButData at h ⊢
  rw [h]
  rfl

/-- The loops keep a permutation (41_rc4.md R121). -/
theorem isPermutation_rc4PrgaLoop (n : Nat) (s : State) (h : IsPermutation s.sbox) :
    IsPermutation (forUpTo n rc4PrgaByte s).sbox :=
  forUpTo_keeps (fun t => IsPermutation t.sbox) _ (fun _ _ ha => isPermutation_swapBytes ha _ _) n s h

theorem isPermutation_rc4XorLoop (n : Nat) (s : State) (h : IsPermutation s.sbox) :
    IsPermutation (forUpTo n rc4XorByte s).sbox :=
  forUpTo_keeps (fun t => IsPermutation t.sbox) _ (fun _ _ ha => isPermutation_swapBytes ha _ _) n s h

/-- The key schedule makes a permutation (41_rc4.md R120). -/
theorem isPermutation_ksa (key : Bytes256) (klen : Nat) : IsPermutation (ksa key klen) := by
  have h : ∀ n, IsPermutation (forUpTo n (ksaRound key klen) { box := identityBox, j := 0 }).box := fun n =>
    forUpTo_keeps (fun t : KsaLocals => IsPermutation t.box) _ (fun _ _ ha => isPermutation_swapBytes ha _ _) n _
      isPermutation_identityBox
  exact h 256

/-! ## The outcome of each command -/

theorem execTeaEnc_eq (s : State) : execTeaEnc s = .next (if s.err then dropCommand s else teaEncBody s) := by
  unfold execTeaEnc issue; split <;> rfl

theorem execTeaDec_eq (s : State) : execTeaDec s = .next (if s.err then dropCommand s else teaDecBody s) := by
  unfold execTeaDec issue; split <;> rfl

theorem execRc4Ksa_eq (s : State) : execRc4Ksa s = .next (
    if s.err then dropCommand s else if s.klen = 0 then raiseError .emptyKey s else rc4KsaBody s) := by
  unfold execRc4Ksa issue checked
  by_cases h : s.err = true <;> by_cases h' : s.klen = 0 <;> simp [h, h']

theorem execRc4Prga_eq (n : Count) (s : State) : execRc4Prga n s = .next (
    if s.err then dropCommand s else if ¬ streamCountOk n then raiseError .illegalCommand s
    else if ¬ s.rc4rdy then raiseError .rc4NotKeyed s else forUpTo n.toNat rc4PrgaByte s) := by
  unfold execRc4Prga issue checked
  by_cases h : s.err = true <;> by_cases h' : streamCountOk n = true <;> by_cases h'' : s.rc4rdy = true <;>
    simp [h, h', h'']

theorem execRc4Xor_eq (n : Count) (s : State) : execRc4Xor n s = .next (
    if s.err then dropCommand s else if ¬ streamCountOk n then raiseError .illegalCommand s
    else if ¬ s.rc4rdy then raiseError .rc4NotKeyed s else forUpTo n.toNat rc4XorByte s) := by
  unfold execRc4Xor issue checked
  by_cases h : s.err = true <;> by_cases h' : streamCountOk n = true <;> by_cases h'' : s.rc4rdy = true <;>
    simp [h, h', h'']

theorem execVnXor_eq (n k : Count) (s : State) : execVnXor n k s = .next (
    if s.err then dropCommand s else if ¬ (streamCountOk n && padCountOk k) then raiseError .illegalCommand s
    else if k.toNat < n.toNat then raiseError .keyTooShort s else forUpTo n.toNat vnXorByte s) := by
  unfold execVnXor issue checked
  by_cases h : s.err = true <;> by_cases h' : (streamCountOk n && padCountOk k) = true <;>
    by_cases h'' : k.toNat < n.toNat <;> simp [h, h', h'']

/-- Everything a command can do: it is dropped, it raises one error, or its body runs; it always answers a next state. -/
theorem exec_cases (i : Instr) (s : State) : ∃ t, exec i s = .next t ∧
    ((s.err = true ∧ t = dropCommand s) ∨
      (s.err = false ∧ (∃ e, t = raiseError e s)) ∨
      (s.err = false ∧ i = .teaEnc ∧ t = teaEncBody s) ∨ (s.err = false ∧ i = .teaDec ∧ t = teaDecBody s) ∨
      (s.err = false ∧ i = .rc4Ksa ∧ s.klen ≠ 0 ∧ t = rc4KsaBody s) ∨
      (s.err = false ∧ (∃ n, i = .rc4Prga n ∧ streamCountOk n = true ∧ s.rc4rdy = true ∧
        t = forUpTo n.toNat rc4PrgaByte s)) ∨
      (s.err = false ∧ (∃ n, i = .rc4Xor n ∧ streamCountOk n = true ∧ s.rc4rdy = true ∧
        t = forUpTo n.toNat rc4XorByte s)) ∨
      (s.err = false ∧ (∃ n k, i = .vnXor n k ∧ streamCountOk n = true ∧ padCountOk k = true ∧
        n.toNat ≤ k.toNat ∧ t = forUpTo n.toNat vnXorByte s))) := by
  by_cases h : s.err = true
  · cases i <;> simp only [exec, execTeaEnc_eq, execTeaDec_eq, execRc4Ksa_eq, execRc4Prga_eq, execRc4Xor_eq,
      execVnXor_eq, if_pos h] <;> exact ⟨_, rfl, .inl ⟨h, rfl⟩⟩
  · have h' : s.err = false := by simpa using h
    cases i <;> simp only [exec, execTeaEnc_eq, execTeaDec_eq, execRc4Ksa_eq, execRc4Prga_eq, execRc4Xor_eq,
      execVnXor_eq, if_neg h]
    · exact ⟨_, rfl, by simp [h']⟩
    · exact ⟨_, rfl, by simp [h']⟩
    · split
      · exact ⟨_, rfl, .inr (.inl ⟨h', _, rfl⟩)⟩
      · exact ⟨_, rfl, .inr (.inr (.inr (.inr (.inl ⟨h', trivial, ‹_›, rfl⟩))))⟩
    · refine ⟨_, rfl, ?_⟩
      split
      · exact .inr (.inl ⟨h', _, rfl⟩)
      split
      · exact .inr (.inl ⟨h', _, rfl⟩)
      · simp_all
    · refine ⟨_, rfl, ?_⟩
      split
      · exact .inr (.inl ⟨h', _, rfl⟩)
      split
      · exact .inr (.inl ⟨h', _, rfl⟩)
      · simp_all
    · refine ⟨_, rfl, ?_⟩
      split
      · exact .inr (.inl ⟨h', _, rfl⟩)
      split
      · exact .inr (.inl ⟨h', _, rfl⟩)
      · simp_all

end Sys2Proof.Machine
end

