-- ==== Sys2Proof/Laws/Decode.lean ====
section
/-! SUPPORT. The fields of a command word and the shape of a decoded command (30_encoding.md R81, R83). -/

namespace Sys2Proof

/-! ## The fields as numbers (R81) -/

theorem opField_toNat (v : Word) : (opField v).toNat = v.toNat % 256 := by
  simp [opField, BitVec.extractLsb'_toNat]

theorem nField_toNat (v : Word) : (nField v).toNat = v.toNat / 256 % 16 := by
  simp [nField, BitVec.extractLsb'_toNat, Nat.shiftRight_eq_div_pow]

theorem kField_toNat (v : Word) : (kField v).toNat = v.toNat / 4096 % 16 := by
  simp [kField, BitVec.extractLsb'_toNat, Nat.shiftRight_eq_div_pow]

theorem rsvField_toNat (v : Word) : (rsvField v).toNat = v.toNat / 65536 := by
  have := v.isLt
  simp only [rsvField, BitVec.extractLsb'_toNat, Nat.shiftRight_eq_div_pow]
  omega

theorem encodeFields_toNat (op : Byte) (n k : Count) :
    (encodeFields op n k).toNat = op.toNat + 256 * n.toNat + 4096 * k.toNat := by
  have h1 := op.isLt
  have h2 := n.isLt
  have h3 := k.isLt
  have e : (encodeFields op n k).toNat = (((0 : Nat) <<< 4 ||| k.toNat) <<< 4 ||| n.toNat) <<< 8 ||| op.toNat := by
    simp only [encodeFields, BitVec.toNat_append]
    rfl
  rw [e, ← Nat.shiftLeft_add_eq_or_of_lt h1, ← Nat.shiftLeft_add_eq_or_of_lt h2, ← Nat.shiftLeft_add_eq_or_of_lt h3]
  simp only [Nat.shiftLeft_eq]
  omega

theorem opField_encodeFields (op : Byte) (n k : Count) : opField (encodeFields op n k) = op := by
  apply BitVec.eq_of_toNat_eq
  have h1 := op.isLt
  rw [opField_toNat, encodeFields_toNat]
  omega

theorem nField_encodeFields (op : Byte) (n k : Count) : nField (encodeFields op n k) = n := by
  apply BitVec.eq_of_toNat_eq
  have h1 := op.isLt
  have h2 := n.isLt
  rw [nField_toNat, encodeFields_toNat]
  omega

theorem kField_encodeFields (op : Byte) (n k : Count) : kField (encodeFields op n k) = k := by
  apply BitVec.eq_of_toNat_eq
  have h1 := op.isLt
  have h2 := n.isLt
  have h3 := k.isLt
  rw [kField_toNat, encodeFields_toNat]
  omega

theorem rsvField_encodeFields (op : Byte) (n k : Count) : rsvField (encodeFields op n k) = 0 := by
  apply BitVec.eq_of_toNat_eq
  have h1 := op.isLt
  have h2 := n.isLt
  have h3 := k.isLt
  rw [rsvField_toNat, encodeFields_toNat]
  simp
  omega

/-- The decoder sees a word made of fields field by field. -/
theorem decode_encodeFields (op : Byte) (n k : Count) : decode (encodeFields op n k) = decodeOp op n k := by
  simp [decode, opField_encodeFields, nField_encodeFields, kField_encodeFields, rsvField_encodeFields]

/-- A word with RSV = 0 is made of its fields. -/
theorem encodeFields_fields {v : Word} (h : rsvField v = 0) : encodeFields (opField v) (nField v) (kField v) = v := by
  apply BitVec.eq_of_toNat_eq
  have h0 := congrArg BitVec.toNat h
  rw [rsvField_toNat] at h0
  rw [encodeFields_toNat, opField_toNat, nField_toNat, kField_toNat]
  simp at h0
  omega

/-- Everything the opcode map can answer, row by row (R83). -/
theorem decodeOp_ok {op : Byte} {n k : Count} {i : Instr} (h : decodeOp op n k = .ok i) :
    (op = 0x01 ∧ n = 0 ∧ k = 0 ∧ i = .teaEnc) ∨ (op = 0x02 ∧ n = 0 ∧ k = 0 ∧ i = .teaDec) ∨
      (op = 0x10 ∧ n = 0 ∧ k = 0 ∧ i = .rc4Ksa) ∨
      (op = 0x11 ∧ streamCountOk n = true ∧ k = 0 ∧ i = .rc4Prga n) ∨
      (op = 0x12 ∧ streamCountOk n = true ∧ k = 0 ∧ i = .rc4Xor n) ∨
      (op = 0x20 ∧ streamCountOk n = true ∧ padCountOk k = true ∧ i = .vnXor n k) := by
  simp only [decodeOp, decodePlain, decodeStream, decodeVernam] at h
  repeat' split at h
  all_goals simp_all

end Sys2Proof
end

