-- ==== Sys2Proof/Laws/Bus.lean ====
section
/-! SUPPORT. The window and the step: what a command write, a transaction and an event can do. -/

namespace Sys2Proof.Machine

/-! ## Commands through the port -/

theorem executeIllegal_eq (s : State) :
    executeIllegal s = .next (if s.err then dropCommand s else raiseError .illegalCommand s) := by
  unfold executeIllegal issue; split <;> rfl

theorem execute_ok {v : Word} {i : Instr} (h : decode v = .ok i) (s : State) : execute v s = exec i s := by
  simp [execute, h]

theorem execute_error {v : Word} {e : DecodeError} (h : decode v = .error e) (s : State) :
    execute v s = executeIllegal s := by simp [execute, h]

/-- A command write runs its command or raises IllegalCommand; it always answers a next state. -/
theorem execute_cases (v : Word) (s : State) :
    (∃ i, decode v = .ok i ∧ execute v s = exec i s) ∨ ((∃ e, decode v = .error e) ∧ execute v s = executeIllegal s) := by
  cases h : decode v with
  | ok i => exact .inl ⟨i, rfl, execute_ok h s⟩
  | error e => exact .inr ⟨⟨e, rfl⟩, execute_error h s⟩

/-- Every command write completes (70_reset_and_hazards.md R198). -/
theorem execute_completes (v : Word) (s : State) : ∃ t, execute v s = .next t := by
  rcases execute_cases v s with ⟨i, -, h⟩ | ⟨-, h⟩
  · obtain ⟨t, ht, -⟩ := exec_cases i s
    exact ⟨t, h.trans ht⟩
  · exact ⟨_, h.trans (executeIllegal_eq s)⟩

/-! ## The register map -/

@[simp] theorem regAt_cmdIndex : regAt cmdIndex = .cmd := rfl

theorem byteOffset_lt (w : WordIndex) : byteOffset w < 4096 := by
  have := w.isLt
  simp only [byteOffset]
  omega

/-- Every write completes. -/
theorem memWrite_completes (w : WordIndex) (v : Word) (s : State) : ∃ t, memWrite w v s = .next t := by
  unfold memWrite writeReg
  cases regAt w <;> first | exact execute_completes v s | exact ⟨_, rfl⟩

theorem transact_read (w : WordIndex) (s : State) :
    transact (.read w) s = .next (respond (.value (memRead w s)) s) := rfl

theorem transact_write {w : WordIndex} {v : Word} {s t : State} (h : memWrite w v s = .next t) :
    transact (.write w v) s = .next (respond .done t) := by
  simp [transact, h]

/-! ## The step -/

theorem step_idle {s : State} (h : s.pending = []) : step s = .next s := by simp [step, runNext, h]

theorem step_event {s : State} {e : HostEvent} {rest : List HostEvent} (h : s.pending = e :: rest) :
    step s = perform e { s with pending := rest } := by simp [step, runNext, h]

/-- The bridge passes one aligned word of the window and stops on anything else (20_memory.md R56). -/
theorem bridge_next {addr size : Nat} {w : WordIndex} (h : bridge addr size = .next w) :
    windowBase ≤ addr ∧ addr < windowBase + 4096 ∧ size = 4 ∧ addr % 4 = 0 ∧
      w = BitVec.ofNat 10 ((addr - windowBase) / 4) := by
  unfold bridge at h
  split at h
  · cases h
  · split at h
    · cases h
      exact ⟨by omega, by omega, by tauto, by tauto, rfl⟩
    · cases h

/-- A step that answers a next state is idle, a read, a write, or a reset, on the port or through the bridge. -/
theorem step_cases {s t : State} (h : step s = .next t) :
    (s.pending = [] ∧ t = s) ∨ ∃ e rest, s.pending = e :: rest ∧
      ((∃ w, (e = .bus (.read w) ∨ ∃ addr, e = .cpuRead addr 4 ∧ bridge addr 4 = .next w) ∧
          t = respond (.value (memRead w { s with pending := rest })) { s with pending := rest }) ∨
        (∃ w v u, (e = .bus (.write w v) ∨ ∃ addr, e = .cpuWrite addr 4 v ∧ bridge addr 4 = .next w) ∧
          memWrite w v { s with pending := rest } = .next u ∧ t = respond .done u) ∨
        (e = .reset ∧ t = resetEngine { s with pending := rest }) ∨
        (∃ v r, e = .resetDuringCommand v ∧ t = respond (.aborted r) (resetEngine { s with pending := rest }))) := by
  cases hp : s.pending with
  | nil =>
    rw [step_idle hp] at h
    cases h
    exact .inl ⟨rfl, rfl⟩
  | cons e rest =>
    rw [step_event hp] at h
    refine .inr ⟨e, rest, rfl, ?_⟩
    cases e with
    | bus tr =>
      cases tr with
      | read w => cases h; exact .inl ⟨w, .inl rfl, rfl⟩
      | write w v =>
        obtain ⟨u, hu, h'⟩ := onNext_eq_next.mp h
        cases h'
        exact .inr (.inl ⟨w, v, u, .inl rfl, hu, rfl⟩)
    | cpuRead addr size =>
      obtain ⟨w, hw, h'⟩ := onNext_eq_next.mp h
      obtain ⟨-, -, rfl, -⟩ := bridge_next hw
      cases h'
      exact .inl ⟨w, .inr ⟨addr, rfl, hw⟩, rfl⟩
    | cpuWrite addr size v =>
      obtain ⟨w, hw, h'⟩ := onNext_eq_next.mp h
      obtain ⟨-, -, rfl, -⟩ := bridge_next hw
      obtain ⟨u, hu, h''⟩ := onNext_eq_next.mp h'
      cases h''
      exact .inr (.inl ⟨w, v, u, .inr ⟨addr, rfl, hw⟩, hu, rfl⟩)
    | reset => cases h; exact .inr (.inr (.inl ⟨rfl, rfl⟩))
    | resetDuringCommand v => cases h; exact .inr (.inr (.inr ⟨v, _, rfl, rfl⟩))

end Sys2Proof.Machine
end

