-- ==== Sys2Proof/Laws/RegisterMap.lean ====
section
/-! SUPPORT. The register map, both ways: the register at an offset and the offset of a register (20_memory.md R53). -/

namespace Sys2Proof.Machine

theorem regAt_cmd {w : WordIndex} (h : byteOffset w = 0x000) : regAt w = .cmd := by simp [regAt, h]
theorem regAt_status {w : WordIndex} (h : byteOffset w = 0x004) : regAt w = .status := by simp [regAt, h]
theorem regAt_data0 {w : WordIndex} (h : byteOffset w = 0x008) : regAt w = .data0 := by simp [regAt, h]
theorem regAt_data1 {w : WordIndex} (h : byteOffset w = 0x00C) : regAt w = .data1 := by simp [regAt, h]
theorem regAt_pad0 {w : WordIndex} (h : byteOffset w = 0x010) : regAt w = .pad0 := by simp [regAt, h]
theorem regAt_pad1 {w : WordIndex} (h : byteOffset w = 0x014) : regAt w = .pad1 := by simp [regAt, h]
theorem regAt_tkey0 {w : WordIndex} (h : byteOffset w = 0x018) : regAt w = .tkey0 := by simp [regAt, h]
theorem regAt_tkey1 {w : WordIndex} (h : byteOffset w = 0x01C) : regAt w = .tkey1 := by simp [regAt, h]
theorem regAt_tkey2 {w : WordIndex} (h : byteOffset w = 0x020) : regAt w = .tkey2 := by simp [regAt, h]
theorem regAt_tkey3 {w : WordIndex} (h : byteOffset w = 0x024) : regAt w = .tkey3 := by simp [regAt, h]
theorem regAt_rc4Klen {w : WordIndex} (h : byteOffset w = 0x028) : regAt w = .rc4Klen := by simp [regAt, h]
theorem regAt_rc4Ij {w : WordIndex} (h : byteOffset w = 0x02C) : regAt w = .rc4Ij := by simp [regAt, h]

theorem regAt_rc4Key {w : WordIndex} {x : BitVec 6} (h : byteOffset w = 0x100 + 4 * x.toNat) : regAt w = .rc4Key x := by
  have hx := x.isLt
  unfold regAt
  iterate 12 rw [if_neg (by omega)]
  rw [if_pos (by omega), h, (by omega : (0x100 + 4 * x.toNat - 0x100) / 4 = x.toNat), BitVec.ofNat_toNat,
    BitVec.setWidth_eq]

theorem regAt_rc4S {w : WordIndex} {x : BitVec 6} (h : byteOffset w = 0x200 + 4 * x.toNat) : regAt w = .rc4S x := by
  have hx := x.isLt
  unfold regAt
  iterate 13 rw [if_neg (by omega)]
  rw [if_pos (by omega), h, (by omega : (0x200 + 4 * x.toNat - 0x200) / 4 = x.toNat), BitVec.ofNat_toNat,
    BitVec.setWidth_eq]

theorem regAt_reserved {w : WordIndex}
    (h : 0x030 ≤ byteOffset w ∧ byteOffset w < 0x100 ∨ 0x300 ≤ byteOffset w) : regAt w = .reserved := by
  unfold regAt
  iterate 14 rw [if_neg (by omega)]

/-- Where each register lies: the register map read from the register to its offset. -/
theorem regAt_spec (w : WordIndex) : match regAt w with
    | .cmd => byteOffset w = 0x000
    | .status => byteOffset w = 0x004
    | .data0 => byteOffset w = 0x008
    | .data1 => byteOffset w = 0x00C
    | .pad0 => byteOffset w = 0x010
    | .pad1 => byteOffset w = 0x014
    | .tkey0 => byteOffset w = 0x018
    | .tkey1 => byteOffset w = 0x01C
    | .tkey2 => byteOffset w = 0x020
    | .tkey3 => byteOffset w = 0x024
    | .rc4Klen => byteOffset w = 0x028
    | .rc4Ij => byteOffset w = 0x02C
    | .rc4Key x => byteOffset w = 0x100 + 4 * x.toNat
    | .rc4S x => byteOffset w = 0x200 + 4 * x.toNat
    | .reserved => 0x030 ≤ byteOffset w ∧ byteOffset w < 0x100 ∨ 0x300 ≤ byteOffset w := by
  have h4 : byteOffset w = 4 * w.toNat := rfl
  have hw := byteOffset_lt w
  by_cases hr : 0x030 ≤ byteOffset w ∧ byteOffset w < 0x100 ∨ 0x300 ≤ byteOffset w
  · rw [regAt_reserved hr]; exact hr
  by_cases hk : 0x100 ≤ byteOffset w ∧ byteOffset w < 0x200
  · have hx : byteOffset w = 0x100 + 4 * (BitVec.ofNat 6 ((byteOffset w - 0x100) / 4)).toNat := by
      rw [BitVec.toNat_ofNat]; omega
    rw [regAt_rc4Key hx]; exact hx
  by_cases hs : 0x200 ≤ byteOffset w
  · have hx : byteOffset w = 0x200 + 4 * (BitVec.ofNat 6 ((byteOffset w - 0x200) / 4)).toNat := by
      rw [BitVec.toNat_ofNat]; omega
    rw [regAt_rc4S hx]; exact hx
  have h : byteOffset w = 0 ∨ byteOffset w = 4 ∨ byteOffset w = 8 ∨ byteOffset w = 12 ∨
      byteOffset w = 16 ∨ byteOffset w = 20 ∨ byteOffset w = 24 ∨ byteOffset w = 28 ∨
      byteOffset w = 32 ∨ byteOffset w = 36 ∨ byteOffset w = 40 ∨ byteOffset w = 44 := by omega
  rcases h with h | h | h | h | h | h | h | h | h | h | h | h
  · rw [regAt_cmd h]; exact h
  · rw [regAt_status h]; exact h
  · rw [regAt_data0 h]; exact h
  · rw [regAt_data1 h]; exact h
  · rw [regAt_pad0 h]; exact h
  · rw [regAt_pad1 h]; exact h
  · rw [regAt_tkey0 h]; exact h
  · rw [regAt_tkey1 h]; exact h
  · rw [regAt_tkey2 h]; exact h
  · rw [regAt_tkey3 h]; exact h
  · rw [regAt_rc4Klen h]; exact h
  · rw [regAt_rc4Ij h]; exact h

/-- A named register lies at one offset only. -/
theorem regAt_injective {w u : WordIndex} (h : regAt w = regAt u) (hr : regAt w ≠ .reserved) : w = u := by
  have hw := regAt_spec w
  have hu := regAt_spec u
  rw [← h] at hu
  apply BitVec.eq_of_toNat_eq
  suffices byteOffset w = byteOffset u by simp only [byteOffset] at this; omega
  revert hw hu hr
  generalize regAt w = r
  cases r <;> simp only [ne_eq, reduceCtorEq, not_false_eq_true, not_true_eq_false, forall_const, false_implies] <;> omega

end Sys2Proof.Machine
end

