-- ==== Sys2Proof/Laws/HostDriver.lean ====
section
/-! SUPPORT. What the host procedures' shared operations can do: lists of transactions, the read of DATA, the final read
of STATUS, the reports and the derived key. -/

namespace Sys2Proof.Machine

theorem transactAll_append (ts us : List Transaction) (s : State) :
    transactAll (ts ++ us) s = onNext (transactAll ts s) (transactAll us) := by
  induction ts generalizing s with
  | nil => rfl
  | cons t ts ih =>
    simp only [List.cons_append, transactAll]
    cases transact t s <;> simp [ih]

theorem transact_completes (t : Transaction) (s : State) : ∃ u, transact t s = .next u := by
  cases t with
  | read w => exact ⟨_, rfl⟩
  | write w v =>
    obtain ⟨u, h⟩ := memWrite_completes w v s
    exact ⟨_, transact_write h⟩

/-- The script's write to CMD runs the command word. -/
theorem memWrite_cmd (v : Word) (s : State) : memWrite (BitVec.ofNat 10 (0x000 / 4)) v s = execute v s := by
  rw [memWrite, regAt_cmd (by decide), writeReg]

/-- A list of transactions keeps what each of them keeps, and completes. -/
theorem transactAll_keeps (P : State → Prop) (ts : List Transaction) (s : State) (hs : P s)
    (h : ∀ t ∈ ts, ∀ u v, P u → transact t u = .next v → P v) : ∃ u, transactAll ts s = .next u ∧ P u := by
  induction ts generalizing s with
  | nil => exact ⟨s, rfl, hs⟩
  | cons t ts ih =>
    obtain ⟨u, hu⟩ := transact_completes t s
    have hP := h t (by simp) s u hs hu
    simpa [transactAll, hu] using ih u hP fun t' ht' => h t' (by simp [ht'])

theorem engineReport_emptyKey : engineReport 2 = .invalidArgument 2 := rfl

/-- The fields of STATUS that a report reads: bit 0 is ERR, bits 7:4 are ECODE (10_state.md R33). -/
theorem statusWord_fields (s : State) : (statusWord s).getLsbD 0 = s.err ∧ (statusWord s).extractLsb' 4 4 = s.ecode := by
  have all : ∀ (e : BitVec 4) (r d x : Bool),
      let v := (e ++ 0#1 ++ bit r ++ bit d ++ bit x : BitVec 8).setWidth 32
      v.getLsbD 0 = x ∧ v.extractLsb' 4 4 = e := by decide
  exact all s.ecode s.rc4rdy s.drop s.err

/-- The final read of STATUS: the result, or the report of the latched error; only the responses change. -/
theorem finish_eq {α : Type} (a : α) (s : State) : ∃ r, finish a s =
    .next (if s.err then .error (engineReport s.ecode) else .ok a, respond r s) := by
  have hr : memRead (BitVec.ofNat 10 (0x004 / 4)) s = statusWord s := by
    rw [memRead, regAt_status (by decide)]; rfl
  refine ⟨.value (memRead (BitVec.ofNat 10 (0x004 / 4)) s), ?_⟩
  simp only [finish, rdAt, transact_read, onNext_next, hr, (statusWord_fields s).1, (statusWord_fields s).2]

/-- The two reads of DATA: its eight bytes; only the responses change. -/
theorem readData_eq (s : State) : ∃ rs, readData s = .next (dataBytes s, { s with responses := rs }) :=
  ⟨_, rfl⟩

/-- One chunk keeps what its transactions keep, answers' list apart, and completes. -/
theorem runChunk_keeps (P : State → Prop) (load : List Transaction) (word : Word) (n : Nat) (s : State) (hs : P s)
    (h : ∀ t ∈ load ++ [wrAt 0x000 word], ∀ u v, P u → transact t u = .next v → P v)
    (hr : ∀ u rs, P u → P { u with responses := rs }) : ∃ bs u, runChunk load word n s = .next (bs, u) ∧ P u := by
  obtain ⟨u, hu, hP⟩ := transactAll_keeps P _ s hs h
  obtain ⟨rs, hd⟩ := readData_eq u
  exact ⟨(dataBytes u).take n, _, by simp [runChunk, hu, hd], hr u rs hP⟩

theorem deriveKey_length (p : List Char) : (deriveKey p).length = 16 := by simp [deriveKey]

end Sys2Proof.Machine
end

