-- ==== Sys2Proof/Laws/PerInstr.lean ====
section
/-! SUPPORT. Statements made for every command, one lemma per constructor. -/

namespace Sys2Proof.Laws.EncodedFields

/-- The command word of a command carries its opcode in OP and zero in RSV (30_encoding.md R81, R83). -/
def Statement (i : Instr) : Prop := opField (encode i) = i.opcode ∧ rsvField (encode i) = 0

theorem teaEnc : Statement .teaEnc := ⟨opField_encodeFields _ _ _, rsvField_encodeFields _ _ _⟩
theorem teaDec : Statement .teaDec := ⟨opField_encodeFields _ _ _, rsvField_encodeFields _ _ _⟩
theorem rc4Ksa : Statement .rc4Ksa := ⟨opField_encodeFields _ _ _, rsvField_encodeFields _ _ _⟩
theorem rc4Prga (n : Count) : Statement (.rc4Prga n) := ⟨opField_encodeFields _ _ _, rsvField_encodeFields _ _ _⟩
theorem rc4Xor (n : Count) : Statement (.rc4Xor n) := ⟨opField_encodeFields _ _ _, rsvField_encodeFields _ _ _⟩
theorem vnXor (n k : Count) : Statement (.vnXor n k) := ⟨opField_encodeFields _ _ _, rsvField_encodeFields _ _ _⟩

end Sys2Proof.Laws.EncodedFields
end

