-- ==== Sys2Proof/Tests/Slice0.lean ====
section
/-! SUPPORT. Tests of the model against the spec's own vectors (95_test_vectors.md) and hand calculation, and a witness
for the hypotheses of every statement that has some. -/

namespace Sys2Proof.Tests

open Sys2Proof.Machine

/-! ## Well-formedness: an ill-formed term for each check (30_encoding.md R83) -/

theorem test_wf_prga_zero_refused : (Instr.rc4Prga 0).wellFormed = false := by decide
theorem test_wf_prga_nine_refused : (Instr.rc4Prga 9).wellFormed = false := by decide
theorem test_wf_xor_zero_refused : (Instr.rc4Xor 0).wellFormed = false := by decide
theorem test_wf_xor_fifteen_refused : (Instr.rc4Xor 15).wellFormed = false := by decide
theorem test_wf_vn_count_refused : (Instr.vnXor 9 8).wellFormed = false := by decide
theorem test_wf_vn_pad_refused : (Instr.vnXor 8 9).wellFormed = false := by decide
theorem test_wf_vn_bounds_accepted : (Instr.vnXor 8 8).wellFormed = true ∧ (Instr.vnXor 1 0).wellFormed = true := by decide

/-! ## Decoding: words written out as RSV KKKK NNNN OP (30_encoding.md R81; 95 E1 to E20) -/

theorem test_decode_teaEnc : decode 0b0000000000000000_0000_0000_00000001 = .ok .teaEnc := by rfl
theorem test_decode_teaDec : decode 0b0000000000000000_0000_0000_00000010 = .ok .teaDec := by rfl
theorem test_decode_rc4Ksa : decode 0b0000000000000000_0000_0000_00010000 = .ok .rc4Ksa := by rfl
theorem test_decode_rc4Prga : decode 0b0000000000000000_0000_1000_00010001 = .ok (.rc4Prga 8) := by rfl
theorem test_decode_rc4Xor : decode 0b0000000000000000_0000_0101_00010010 = .ok (.rc4Xor 5) := by rfl
theorem test_decode_vnXor : decode 0b0000000000000000_0100_0011_00100000 = .ok (.vnXor 3 4) := by rfl
/-- E9, E10: N and K of TEA.ENC. -/
theorem test_decode_plain_fields :
    decode 0x00000101 = .error .countField ∧ decode 0x00001001 = .error .padField := ⟨rfl, rfl⟩
/-- E11 to E13: K and N of RC4.PRGA. -/
theorem test_decode_stream_fields : decode 0x00001811 = .error .padField ∧ decode 0x00000011 = .error .countField ∧
    decode 0x00000911 = .error .countField := ⟨rfl, rfl, rfl⟩
/-- E14, E15: K and N of VN.XOR. -/
theorem test_decode_vernam_fields :
    decode 0x00009820 = .error .padField ∧ decode 0x00000F20 = .error .countField := ⟨rfl, rfl⟩
/-- E16, E17: RSV. -/
theorem test_decode_reserved_bits :
    decode 0x00010001 = .error .reservedBits ∧ decode 0x80000010 = .error .reservedBits := ⟨rfl, rfl⟩
/-- E18 to E20: OP. -/
theorem test_decode_reserved_opcodes : decode 0x00000000 = .error .reservedOpcode ∧
    decode 0x000000FF = .error .reservedOpcode ∧ decode 0x00000003 = .error .reservedOpcode := ⟨rfl, rfl, rfl⟩
theorem test_encode_vnXor : encode (.vnXor 8 4) = 0x00004820 := by rfl
theorem test_tableWord : decodeTableWord 32 0x00000812 = some (.rc4Xor 8) ∧ decodeTableWord 33 (2 ^ 32 + 1) = none := by
  decide

/-! ## Commands -/

/-- A reset engine after `ts`; only for tests whose transactions complete. -/
def after (ts : List Transaction) (s : State) : State :=
  match transactAll ts s with
  | .next t => t
  | .fault _ => State.reset
  | .refused _ => State.reset

/-- Reset state with a block, a pad and a keyed flag over the identity permutation. -/
def small (a b p q : Word) (keyed : Bool) : State :=
  { State.reset with data0 := a, data1 := b, pad0 := p, pad1 := q, rc4rdy := keyed }

/-- Reset state with the TEA key of vector T5 and a block. -/
def teaState (a b : Word) : State :=
  { State.reset with data0 := a, data1 := b, tkey0 := 0x00112233, tkey1 := 0x44556677, tkey2 := 0x8899AABB, tkey3 := 0xCCDDEEFF }

/-- The word a command leaves in a register, given by its byte offset. -/
def leaves (i : Instr) (s : State) (off : Nat) : Word :=
  match exec i s with
  | .next t => memRead (Spec.atOffset off) t
  | .fault _ => 0
  | .refused _ => 0

/-- T5. -/
theorem test_teaEnc_T5 : leaves .teaEnc (teaState 0x01234567 0x89ABCDEF) 0x008 = 0x126C6B92 ∧
    leaves .teaEnc (teaState 0x01234567 0x89ABCDEF) 0x00C = 0xC0653A3E := by decide +kernel
/-- T9: high bits of k3 and v0. -/
theorem test_teaEnc_T9 : leaves .teaEnc { State.reset with data0 := 0x80000000, tkey3 := 0x80000000 } 0x008 = 0xA8A41EE3 := by
  decide +kernel
/-- T10. -/
theorem test_teaDec_T10 : leaves .teaDec State.reset 0x008 = 0x1423FF6D ∧ leaves .teaDec State.reset 0x00C = 0x9216EF3A := by
  decide +kernel
/-- T5 backwards. -/
theorem test_teaDec_T5 : leaves .teaDec (teaState 0x126C6B92 0xC0653A3E) 0x00C = 0x89ABCDEF := by decide +kernel

/-- RC1: the key "Key". -/
theorem test_rc4Ksa_RC1 :
    leaves .rc4Ksa { State.reset with klen := 3, key := setArrayWord State.reset.key 0 0x4B657900 } 0x200 = 0x4B33849D := by
  decide +kernel
/-- RC5: the empty key. -/
theorem test_rc4Ksa_RC5 : leaves .rc4Ksa State.reset 0x004 = 0x00000021 := by decide +kernel
/-- By hand from R121 on the identity permutation: the bytes 2, 5, 7, then I = 3, J = 5. -/
theorem test_rc4Prga_identity : leaves (.rc4Prga 3) (small 0x11223344 0 0 0 true) 0x008 = 0x02050744 ∧
    leaves (.rc4Prga 3) (small 0x11223344 0 0 0 true) 0x02C = 0x00000503 := by decide +kernel
/-- RC13. -/
theorem test_rc4Prga_RC13 : leaves (.rc4Prga 1) State.reset 0x004 = 0x00000041 := by decide +kernel
/-- The same bytes XORed into the data: 11 ^ 02, 22 ^ 05, 33 ^ 07. -/
theorem test_rc4Xor_identity : leaves (.rc4Xor 3) (small 0x11223344 0 0 0 true) 0x008 = 0x13273444 := by decide +kernel
/-- RC13. -/
theorem test_rc4Xor_RC13 : leaves (.rc4Xor 1) State.reset 0x004 = 0x00000041 := by decide +kernel
/-- V3: K > N, bytes 4 to 7 unchanged. -/
theorem test_vnXor_V3 : leaves (.vnXor 4 8) (small 0x01234567 0x89ABCDEF 0xA5A5A5A5 0x0F0F0F0F false) 0x008 = 0xA486E0C2 ∧
    leaves (.vnXor 4 8) (small 0x01234567 0x89ABCDEF 0xA5A5A5A5 0x0F0F0F0F false) 0x00C = 0x89ABCDEF := by decide +kernel
/-- V2: KeyTooShort. -/
theorem test_vnXor_V2 : leaves (.vnXor 8 4) (small 0x01234567 0x89ABCDEF 0xFFFFFFFF 0 false) 0x004 = 0x00000031 := by
  decide +kernel

/-! ## Bus -/

/-- BUS2, BUS3, BUS4: the S window after reset, and ignored writes. -/
theorem test_bus_readOnly :
    memRead (Spec.atOffset 0x2FC) State.reset = 0xFCFDFEFF ∧
    memRead (Spec.atOffset 0x200) (after [wrAt 0x200 0x12345678, wrAt 0x030 0xDEADBEEF] State.reset) = 0x00010203 := by
  decide +kernel
/-- BUS6, BUS7: an illegal word, writes accepted while ERR = 1, a dropped command. -/
theorem test_bus_dropped :
    memRead (Spec.atOffset 0x004) (after [wrAt 0x000 3, wrAt 0x008 0xCAFEF00D, wrAt 0x004 6, wrAt 0x000 1] State.reset) =
      0x00000013 := by decide +kernel
/-- The host's next step runs a placed word. -/
theorem test_withFetchWord_runs : step (State.reset.withFetchWord 32 0x00000111) =
    onNext (exec (.rc4Prga 1) State.reset) fun t => .next (respond .done t) := by rfl

/-! ## Host procedures -/

/-- CBC4 and CBC2's padding (60_exceptions.md R177). -/
theorem test_padding : pad8 [0x68, 0x75, 0x6E, 0x74, 0x65, 0x72, 0x32] = [0x68, 0x75, 0x6E, 0x74, 0x65, 0x72, 0x32, 0x01] ∧
    (unpad8 [0x68, 0x75, 0x6E, 0x74, 0x65, 0x72, 0x32, 0x02]).toOption = none := by decide
/-- V1's pad over a stream of nine bytes, so of two chunks. -/
theorem test_vernamStream : (match vernamStream [1, 2, 3, 4, 5, 6, 7, 8, 9] [255, 255, 255, 255, 0, 0, 0, 0, 1, 77] State.reset with
    | .next (.ok out, _) => out
    | _ => []) = [254, 253, 252, 251, 5, 6, 7, 8, 8] := by decide +kernel

/-- R150 and C1: the empty RC4 key is an InvalidArgument with engine code 2; the code of an unkeyed stream stays. -/
theorem test_engineReport : engineReport 2 = .invalidArgument 2 ∧ engineReport 4 = .engine 4 := by decide
theorem test_rc4Stream_emptyKey : (match rc4Stream [] [1, 2] State.reset with
    | .next (.error e, _) => some e
    | _ => none) = some (.invalidArgument 2) := by decide +kernel
/-- By hand from UTF-8's bit layout: U+0061, U+00E9, U+20AC, U+1F511 take one to four bytes. -/
theorem test_utf8Bytes : utf8Bytes ['a', 'é', '€', '🔑'] =
    [0x61, 0xC3, 0xA9, 0xE2, 0x82, 0xAC, 0xF0, 0x9F, 0x94, 0x91] := by decide +kernel
/-- Log entry 12: the key is checked first, the block alone is still reported. -/
theorem test_checkSizes : checkSizes [1] [2] = some .invalidKeySize ∧
    checkSizes (List.replicate 16 0) [2] = some .invalidBlockSize := by decide

/-! ## Witnesses: states and operands that meet the statements' hypotheses -/

/-- A latched state. -/
def latchedState : State := raiseError .emptyKey State.reset

/-- A keyed state with a one-byte key. -/
def keyedState : State := { State.reset with klen := 1, rc4rdy := true }

/-- A state with one event to come. -/
def facing (e : HostEvent) : State := { State.reset with pending := [e] }

theorem witness_ResetEventRestoresEveryRegister : (facing .reset).pending = .reset :: [] := rfl
theorem witness_ResetDuringCommandLeavesResetState :
    (facing (.resetDuringCommand 0x10)).pending = .resetDuringCommand 0x10 :: [] := rfl
theorem witness_StepRunsDecodedCommand :
    (facing (.bus (.write (Spec.atOffset 0x000) 0x8820))).pending = .bus (.write (Spec.atOffset 0x000) 0x8820) :: [] ∧
    decode 0x8820 = .ok (.vnXor 8 8) := ⟨rfl, rfl⟩
theorem witness_EveryTransactionCompletes : State.reset.pending = [] ∧
    ((facing (.bus (.write 0x3FF 1))).pending = .bus (.write 0x3FF 1) :: [] ∧
      Spec.throughBridge (.bus (.write 0x3FF 1)) = false) ∧
    ((facing .reset).pending = .reset :: [] ∧ Spec.throughBridge .reset = false) := by decide
/-- Inside and aligned at both ends of the window, inside and misaligned or sub-word, and outside just above. -/
theorem witness_BridgePassesAlignedWordsOnly :
    (facing (.cpuRead windowBase 4)).pending = .cpuRead windowBase 4 :: [] ∧
    (facing (.cpuWrite windowBase 4 1)).pending = .cpuWrite windowBase 4 1 :: [] ∧
    (windowBase ≤ windowBase ∧ windowBase < windowBase + 4096 ∧ 4 = 4 ∧ windowBase % 4 = 0) ∧
    (windowBase ≤ windowBase + 4092 ∧ windowBase + 4092 < windowBase + 4096 ∧ (windowBase + 4092) % 4 = 0) ∧
    (windowBase + 4095 < windowBase + 4096 ∧ (windowBase + 4095) % 4 ≠ 0) ∧
    ¬ ((1 : Nat) = 4 ∧ windowBase % 4 = 0) ∧
    ¬ (windowBase ≤ windowBase + 4096 ∧ windowBase + 4096 < windowBase + 4096) := by
  have h : windowBase % 4 = 0 := by unfold windowBase; omega
  exact ⟨rfl, rfl, by omega, by omega, by omega, by omega, by omega⟩
theorem witness_EncodeThenDecode : (Instr.vnXor 8 8).wellFormed = true ∧ (Instr.vnXor 1 0).wellFormed = true ∧
    (Instr.rc4Prga 1).wellFormed = true ∧ (Instr.rc4Xor 8).wellFormed = true ∧ Instr.teaEnc.wellFormed = true := by decide
theorem witness_DecodeThenEncode : decode 0x00000811 = .ok (.rc4Prga 8) := by rfl
theorem witness_DecoderAcceptsExactlyLegalWords : Spec.legalWord 0x8820 ∧ ¬ Spec.legalWord 0x9820 ∧
    ¬ Spec.legalWord 0x00010001 ∧ State.reset.err = false := by
  refine ⟨by unfold Spec.legalWord; decide, by unfold Spec.legalWord; decide, by unfold Spec.legalWord; decide, rfl⟩
theorem witness_EncodingExamples : State.reset.err = false := rfl
theorem witness_CommandDroppedWhileLatched : latchedState.err = true := rfl
/-- One state and word for each clause: dropped, illegal, empty key, not keyed, pad too short, and success. -/
theorem witness_ErrorConditionsInPriorityOrder :
    latchedState.err = true ∧ (State.reset.err = false ∧ ¬ Spec.legalWord 0x00000003) ∧
    (Spec.legalWord 0x10 ∧ State.reset.klen = 0) ∧
    (Spec.legalWord 0x111 ∧ Spec.legalWord 0x812 ∧ State.reset.rc4rdy = false) ∧
    (Spec.legalWord 0x7820 ∧ 0x7820 / 4096 % 16 < 0x7820 / 256 % 16) ∧
    (Spec.legalWord 0x8820 ∧ ¬ 0x8820 / 4096 % 16 < 0x8820 / 256 % 16) ∧ keyedState.klen ≠ 0 ∧ keyedState.rc4rdy = true := by
  refine ⟨rfl, ⟨rfl, ?_⟩, ⟨?_, rfl⟩, ⟨?_, ?_, rfl⟩, ⟨?_, by decide⟩, ⟨?_, by decide⟩, by decide, rfl⟩ <;>
    unfold Spec.legalWord <;> decide
theorem witness_ErrorsArePrecise : State.reset.err = false ∧ execute 0x10 State.reset = .next latchedState ∧
    latchedState.err = true := ⟨rfl, rfl, rfl⟩
theorem witness_StatusWriteClearsLatch : (0x00000001 : Word).getLsbD 0 = true ∧ LatchOk State.reset ∧
    State.reset.err = false := by
  refine ⟨by decide, ?_, rfl⟩
  simp [LatchOk, State.reset]
theorem witness_StatusFields : (0xFFFFFFFE : Word).getLsbD 0 = false := by decide
theorem witness_CmdIsTriggerOnly : execute 0x10 State.reset = .next latchedState := rfl
/-- The first and the last register of each storage range: DATA0, RC4_KLEN, RC4_KEY0, RC4_KEY63. -/
theorem witness_StorageWriteReadsBack : 4 * (0x002 : WordIndex).toNat = 0x008 ∧ 4 * (0x00A : WordIndex).toNat = 0x028 ∧
    4 * (0x040 : WordIndex).toNat = 0x100 ∧ 4 * (0x07F : WordIndex).toNat = 0x1FC ∧ (0x040 : WordIndex) ≠ 0x002 := by decide
/-- Both ends of each reserved and read-only range. -/
theorem witness_ReservedAndReadOnlyOffsets : 4 * (0x00C : WordIndex).toNat = 0x030 ∧ 4 * (0x03F : WordIndex).toNat = 0x0FC ∧
    4 * (0x0C0 : WordIndex).toNat = 0x300 ∧ 4 * (0x3FF : WordIndex).toNat = 0xFFC ∧ 4 * (0x00B : WordIndex).toNat = 0x02C ∧
    4 * (0x080 : WordIndex).toNat = 0x200 ∧ 4 * (0x0BF : WordIndex).toNat = 0x2FC := by decide
theorem witness_ReadsHaveNoSideEffect : (facing (.bus (.read 2))).pending = .bus (.read 2) :: [] := rfl
/-- Byte 0 and byte 7, and a bit on either side of byte 7. -/
theorem witness_ByteViewIsBigEndian : (0 : Nat) < 8 ∧ (7 : Nat) < 8 ∧ 56 - 8 * 7 ≤ 7 ∧ 7 ≤ 63 - 8 * 7 ∧ ¬ 8 ≤ 63 - 8 * 7 := by
  decide
theorem witness_TeaEncResult : (0x00000101 : Word).toNat % 256 = 0x01 ∧ (0x00000101 : Word) ≠ 0x00000001 ∧
    State.reset.err = false ∧ latchedState.err = true ∧ State.reset.tkey0 = 0 ∧ State.reset.tkey1 = 0 ∧
    State.reset.tkey2 = 0 ∧ State.reset.tkey3 = 0 ∧ State.reset.data0 = 0 ∧ State.reset.data1 = 0 := by
  refine ⟨by decide, by decide, rfl, rfl, rfl, rfl, rfl, rfl, rfl, rfl⟩
theorem witness_TeaDecResult : (0x00000102 : Word).toNat % 256 = 0x02 ∧ (0x00000102 : Word) ≠ 0x00000002 ∧
    (small 0x41EA3A0A 0x94BAA940 0 0 false).err = false ∧ latchedState.err = true ∧
    (small 0x41EA3A0A 0x94BAA940 0 0 false).tkey0 = 0 ∧ (small 0x41EA3A0A 0x94BAA940 0 0 false).tkey1 = 0 ∧
    (small 0x41EA3A0A 0x94BAA940 0 0 false).tkey2 = 0 ∧ (small 0x41EA3A0A 0x94BAA940 0 0 false).tkey3 = 0 ∧
    (small 0x41EA3A0A 0x94BAA940 0 0 false).data0 = 0x41EA3A0A ∧
    (small 0x41EA3A0A 0x94BAA940 0 0 false).data1 = 0x94BAA940 := by
  refine ⟨by decide, by decide, rfl, rfl, rfl, rfl, rfl, rfl, rfl, rfl⟩
theorem witness_TeaCommandsAreInverse : (teaState 1 2).err = false := rfl
/-- Two states that agree on DATA and TKEY and differ elsewhere. -/
theorem witness_TeaIsStateless : State.reset.err = false ∧ keyedState.err = false ∧ State.reset.data0 = keyedState.data0 ∧
    State.reset.data1 = keyedState.data1 ∧ State.reset.tkey0 = keyedState.tkey0 ∧ State.reset.tkey1 = keyedState.tkey1 ∧
    State.reset.tkey2 = keyedState.tkey2 ∧ State.reset.tkey3 = keyedState.tkey3 ∧ State.reset.rc4rdy ≠ keyedState.rc4rdy := by
  refine ⟨rfl, rfl, rfl, rfl, rfl, rfl, rfl, rfl, by decide⟩
theorem witness_Rc4KsaResult : State.reset.err = false ∧ State.reset.klen = 0 ∧ keyedState.err = false ∧
    keyedState.klen ≠ 0 := ⟨rfl, rfl, rfl, by decide⟩
/-- I = J after the step: I = 0 and J = 0 over the identity permutation give I = J = 1. -/
theorem witness_KeystreamStep : (rc4Advance State.reset).i = (rc4Advance State.reset).j := by decide +kernel
theorem witness_Rc4PrgaResult : State.reset.err = false ∧ (1 ≤ (1 : Count).toNat ∧ (8 : Count).toNat ≤ 8) ∧
    ¬ (1 ≤ (0 : Count).toNat ∧ (0 : Count).toNat ≤ 8) ∧ ¬ (1 ≤ (9 : Count).toNat ∧ (9 : Count).toNat ≤ 8) ∧
    State.reset.rc4rdy = false ∧ keyedState.rc4rdy = true ∧ keyedState.err = false := by
  refine ⟨rfl, by decide, by decide, by decide, rfl, rfl, rfl⟩
theorem witness_Rc4XorResult : State.reset.err = false ∧ (1 ≤ (1 : Count).toNat ∧ (8 : Count).toNat ≤ 8) ∧
    ¬ (1 ≤ (0 : Count).toNat ∧ (0 : Count).toNat ≤ 8) ∧ ¬ (1 ≤ (9 : Count).toNat ∧ (9 : Count).toNat ≤ 8) ∧
    State.reset.rc4rdy = false ∧ keyedState.rc4rdy = true ∧ keyedState.data0 = 0 ∧ keyedState.data1 = 0 := by
  refine ⟨rfl, by decide, by decide, by decide, rfl, rfl, rfl, rfl⟩
/-- A reset of an engine whose I is 1. -/
theorem witness_OnlyRc4CommandsChangeRc4State :
    let s := { facing .reset with i := 1 }
    ∃ t, step s = .next t ∧ ¬ (t.sbox = s.sbox ∧ t.i = s.i ∧ t.j = s.j ∧ t.rc4rdy = s.rc4rdy) :=
  ⟨{ State.reset with pending := [] }, rfl, fun h => absurd (show (0 : Byte) = 1 from h.2.1) (by decide)⟩
theorem witness_ChunkingKeepsKeystream : keyedState.err = false ∧ keyedState.rc4rdy = true ∧
    ∀ n ∈ [(4 : Count), 5, 1, 8], 1 ≤ n.toNat ∧ n.toNat ≤ 8 := ⟨rfl, rfl, by decide⟩
theorem witness_ChunkingKeepsXorStream : keyedState.err = false ∧ keyedState.rc4rdy = true ∧
    ∀ d ∈ [((8 : Count), (1 : Word), (2 : Word)), (1, 3, 4)], 1 ≤ d.1.toNat ∧ d.1.toNat ≤ 8 := ⟨rfl, rfl, by simp⟩
theorem witness_EmptyKeyReportedAsInvalidArgument : State.reset.err = false := rfl
theorem witness_Rc4IsSymmetric : keyedState.err = false ∧ keyedState.klen ≠ 0 ∧
    ∀ d ∈ [((8 : Count), (1 : Word), (2 : Word)), (1, 3, 4)], 1 ≤ d.1.toNat ∧ d.1.toNat ≤ 8 := ⟨rfl, by decide, by simp⟩
theorem byteAt_zero_key (x : Byte) : byteAt (Vector.replicate 256 0) x = 0 := Vector.getElem_replicate _
/-- A key of 257 zero bytes, the shortest that does not fit the buffer. -/
theorem witness_LongKeysScheduleExactly : ∃ k : List Byte, k = List.replicate 257 0 ∧
    ({ State.reset with klen := 257 } : State).err = false ∧ 256 < k.length ∧
    ({ State.reset with klen := 257 } : State).klen.toNat = k.length ∧
    ∀ x < 256, byteAt ({ State.reset with klen := 257 } : State).key (BitVec.ofNat 8 x) = k.getD x 0 := by
  refine ⟨_, rfl, rfl, ?_, ?_, fun x hx => (byteAt_zero_key _).trans ?_⟩
  · rw [List.length_replicate]; omega
  · rw [List.length_replicate]; decide
  · rw [List.getD_eq_getElem?_getD, List.getElem?_replicate, if_pos (by omega)]; rfl
theorem witness_VnXorResult : State.reset.err = false ∧ (1 ≤ (8 : Count).toNat ∧ (8 : Count).toNat ≤ 8) ∧
    ((7 : Count).toNat < (8 : Count).toNat) ∧ ((8 : Count).toNat ≤ (8 : Count).toNat) ∧
    ¬ (1 ≤ (9 : Count).toNat ∧ (9 : Count).toNat ≤ 8 ∧ (8 : Count).toNat ≤ 8) ∧
    ¬ (1 ≤ (8 : Count).toNat ∧ (8 : Count).toNat ≤ 8 ∧ (9 : Count).toNat ≤ 8) := by
  refine ⟨rfl, by decide, by decide, by decide, by decide, by decide⟩
theorem witness_VnXorIsSelfInverse : State.reset.err = false ∧ 1 ≤ (1 : Count).toNat ∧
    (1 : Count).toNat ≤ (8 : Count).toNat ∧ (8 : Count).toNat ≤ 8 := by
  refine ⟨rfl, by decide, by decide, by decide⟩
theorem witness_VernamStreamContract : State.reset.err = false ∧ [(1 : Byte)].length < [(1 : Byte), 2].length ∧
    [(1 : Byte), 2].length ≤ [(3 : Byte), 4].length := by
  refine ⟨rfl, by decide, by decide⟩
theorem witness_NoCommandWritesOperandRegisters : execute 0x10 State.reset = .next latchedState := rfl
theorem witness_StepKeepsInvariant : State.reset.Inv ∧ step State.reset = .next State.reset := by
  refine ⟨⟨List.Perm.refl _, ?_, fun _ => ⟨rfl, rfl, rfl⟩⟩, rfl⟩
  simp [LatchOk, State.reset]

end Sys2Proof.Tests
end

namespace Sys2Proof.Machine

/-! # Proofs about the state (10_state.md)

First what a CMD write, any write of the window and a step can do, each said once as a list of cases; then the
obligations, each read off that list. -/

/-! ## What a decoded word says about its number (30_encoding.md R81, R83, R84) -/

theorem streamCountOk_iff (n : Count) : streamCountOk n = true ↔ 1 ≤ n.toNat ∧ n.toNat ≤ 8 := by
  simp [streamCountOk]

theorem padCountOk_iff (k : Count) : padCountOk k = true ↔ k.toNat ≤ 8 := by
  simp [padCountOk]

theorem decode_ok {v : Word} {i : Instr} (h : decode v = .ok i) :
    rsvField v = 0 ∧ decodeOp (opField v) (nField v) (kField v) = .ok i := by
  unfold decode at h
  split at h
  · cases h
  · exact ⟨by simpa using ‹¬ rsvField v ≠ 0›, h⟩

/-- OP of a word that decodes is the opcode of its command. -/
theorem opcode_of_decode {v : Word} {i : Instr} (h : decode v = .ok i) : v.toNat % 256 = i.opcode.toNat := by
  have hop : opField v = i.opcode := by
    rcases decodeOp_ok (decode_ok h).2 with
      ⟨hop, -, -, rfl⟩ | ⟨hop, -, -, rfl⟩ | ⟨hop, -, -, rfl⟩ | ⟨hop, -, -, rfl⟩ | ⟨hop, -, -, rfl⟩ | ⟨hop, -, -, rfl⟩ <;>
      exact hop
  rw [← opField_toNat, hop]

/-- A word that decodes is legal by R84. -/
theorem legalWord_of_decode {v : Word} {i : Instr} (h : decode v = .ok i) : Spec.legalWord v := by
  obtain ⟨hrsv, hrow⟩ := decode_ok h
  unfold Spec.legalWord
  rw [← rsvField_toNat, ← opField_toNat, ← nField_toNat, ← kField_toNat, hrsv]
  refine ⟨rfl, ?_⟩
  rcases decodeOp_ok hrow with ⟨hop, hn, hk, -⟩ | ⟨hop, hn, hk, -⟩ | ⟨hop, hn, hk, -⟩ | ⟨hop, hn, hk, -⟩ |
    ⟨hop, hn, hk, -⟩ | ⟨hop, hn, hk, -⟩ <;> rw [hop]
  · simp [hn, hk]
  · simp [hn, hk]
  · simp [hn, hk]
  · simp [(streamCountOk_iff _).mp hn, hk]
  · simp [(streamCountOk_iff _).mp hn, hk]
  · simp [(streamCountOk_iff _).mp hn, (padCountOk_iff _).mp hk]

/-! ## What a CMD write can do -/

theorem teaEncBody_frame (s : State) : sameButData s (teaEncBody s) := by simp only [sameButData, teaEncBody]

theorem teaDecBody_frame (s : State) : sameButData s (teaDecBody s) := by simp only [sameButData, teaDecBody]

/-- The effects of a write of `v` to CMD in state `s`, by the registers they reach (10_state.md R25, R32; 60_exceptions.md
R152, R155). -/
inductive CommandEffect (v : Word) (s : State) : State → Prop
  /-- The command was dropped. -/
  | dropped (latched : s.err = true) : CommandEffect v s (dropCommand s)
  /-- The command or the illegal word raised an error. -/
  | raised (e : EngineError) : CommandEffect v s (raiseError e s)
  /-- TEA.ENC, TEA.DEC or VN.XOR wrote DATA. -/
  | wroteData {t : State} (frame : sameButData s t) : CommandEffect v s t
  /-- RC4.KSA scheduled a key. -/
  | scheduled (running : s.err = false) (word : decode v = .ok .rc4Ksa) : CommandEffect v s (rc4KsaBody s)
  /-- RC4.PRGA or RC4.XOR took keystream bytes. -/
  | streamed {t : State} (n : Count) (running : s.err = false)
      (word : decode v = .ok (.rc4Prga n) ∨ decode v = .ok (.rc4Xor n)) (keyed : s.rc4rdy = true)
      (frame : sameButStream s t) (permutes : IsPermutation s.sbox → IsPermutation t.sbox) : CommandEffect v s t

theorem commandEffect_of_exec {v : Word} {i : Instr} {s t : State} (hd : decode v = .ok i) (h : exec i s = .next t) :
    CommandEffect v s t := by
  obtain ⟨t', ht', hcases⟩ := exec_cases i s
  obtain rfl : t' = t := by rw [h] at ht'; cases ht'; rfl
  rcases hcases with ⟨herr, rfl⟩ | ⟨-, e, rfl⟩ | ⟨-, -, rfl⟩ | ⟨-, -, rfl⟩ | ⟨hrun, rfl, -, rfl⟩ |
    ⟨hrun, n, rfl, -, hkeyed, rfl⟩ | ⟨hrun, n, rfl, -, hkeyed, rfl⟩ | ⟨-, n, k, -, -, -, -, rfl⟩
  · exact .dropped herr
  · exact .raised e
  · exact .wroteData (teaEncBody_frame s)
  · exact .wroteData (teaDecBody_frame s)
  · exact .scheduled hrun hd
  · exact .streamed n hrun (.inl hd) hkeyed (rc4PrgaLoop_frame _ s) (isPermutation_rc4PrgaLoop _ s)
  · exact .streamed n hrun (.inr hd) hkeyed (rc4XorLoop_frame _ s) (isPermutation_rc4XorLoop _ s)
  · exact .wroteData (vnXorLoop_frame _ s)

/-- Everything a CMD write can do. -/
theorem commandEffect_of_execute {v : Word} {s t : State} (h : execute v s = .next t) : CommandEffect v s t := by
  rcases execute_cases v s with ⟨i, hd, hi⟩ | ⟨-, hi⟩
  · exact commandEffect_of_exec hd (hi ▸ h)
  · rw [hi, executeIllegal_eq] at h
    cases h
    split
    · exact .dropped ‹_›
    · exact .raised .illegalCommand

/-- The registers no command writes and the host's side (10_state.md R23, R25 to R28) are as in `s`. -/
def sameOperands (s t : State) : Prop :=
  t.pad0 = s.pad0 ∧ t.pad1 = s.pad1 ∧ t.tkey0 = s.tkey0 ∧ t.tkey1 = s.tkey1 ∧ t.tkey2 = s.tkey2 ∧
    t.tkey3 = s.tkey3 ∧ t.klen = s.klen ∧ t.key = s.key ∧ t.pending = s.pending ∧ t.responses = s.responses

theorem CommandEffect.keepsOperands {v : Word} {s t : State} (h : CommandEffect v s t) : sameOperands s t := by
  cases h with
  | dropped => simp [sameOperands]
  | raised => simp [sameOperands]
  | wroteData frame => rw [frame]; simp [sameOperands]
  | scheduled => simp [sameOperands]
  | streamed n _ _ _ frame => rw [frame]; simp [sameOperands]

/-! ## What a write of the window can do -/

theorem regAt_eq_cmd_iff {w : WordIndex} : regAt w = .cmd ↔ w = cmdIndex :=
  ⟨fun h => regAt_injective (h.trans regAt_cmdIndex.symm) (by simp [h]), fun h => h ▸ regAt_cmdIndex⟩

/-- Only the storage registers of the window (DATA, PAD, TKEY, RC4_KLEN, RC4_KEY) may differ (20_memory.md R52). -/
def sameButStorage (s t : State) : Prop :=
  t = { s with data0 := t.data0, data1 := t.data1, pad0 := t.pad0, pad1 := t.pad1, tkey0 := t.tkey0,
               tkey1 := t.tkey1, tkey2 := t.tkey2, tkey3 := t.tkey3, klen := t.klen, key := t.key }

theorem sameButStorage_of_sameButData {s t : State} (h : sameButData s t) : sameButStorage s t := by
  rw [h]; rfl

/-- Every write of the window starts a command, ends the error state, or reaches storage registers only. -/
theorem memWrite_cases {w : WordIndex} {v : Word} {s t : State} (h : memWrite w v s = .next t) :
    (w = cmdIndex ∧ execute v s = .next t) ∨ t = clearError s ∨ sameButStorage s t := by
  unfold memWrite at h
  cases hr : regAt w <;> rw [hr] at h
  case cmd => exact .inl ⟨regAt_eq_cmd_iff.mp hr, h⟩
  case status =>
    cases h
    unfold writeStatus
    split
    · exact .inr (.inl rfl)
    · exact .inr (.inr rfl)
  all_goals cases h; exact .inr (.inr rfl)

/-! ## The RC4 state (10_state.md R32) -/

/-- S, I, J and RC4RDY are as in `s`. -/
def sameRc4 (s t : State) : Prop := t.sbox = s.sbox ∧ t.i = s.i ∧ t.j = s.j ∧ t.rc4rdy = s.rc4rdy

theorem sameRc4_of_sameButStorage {s t : State} (h : sameButStorage s t) : sameRc4 s t := by
  rw [h]; exact ⟨rfl, rfl, rfl, rfl⟩

/-- A CMD write that is no legal RC4 command run to success leaves the RC4 state. -/
theorem CommandEffect.sameRc4_or_rc4Command {v : Word} {s t : State} (h : CommandEffect v s t) :
    sameRc4 s t ∨ s.err = false ∧ t.err = false ∧ Spec.legalWord v ∧
      (v.toNat % 256 = 0x10 ∨ v.toNat % 256 = 0x11 ∨ v.toNat % 256 = 0x12) := by
  cases h with
  | dropped => exact .inl ⟨rfl, rfl, rfl, rfl⟩
  | raised => exact .inl ⟨rfl, rfl, rfl, rfl⟩
  | wroteData frame => exact .inl (sameRc4_of_sameButStorage (sameButStorage_of_sameButData frame))
  | scheduled running word =>
    exact .inr ⟨running, (rc4KsaBody_err s).trans running, legalWord_of_decode word, .inl (opcode_of_decode word)⟩
  | streamed n running word _ frame =>
    have herr : t.err = false := by rw [frame]; exact running
    rcases word with hd | hd
    · exact .inr ⟨running, herr, legalWord_of_decode hd, .inr (.inl (opcode_of_decode hd))⟩
    · exact .inr ⟨running, herr, legalWord_of_decode hd, .inr (.inr (opcode_of_decode hd))⟩

/-- The bridge reaches CMD from the window's first address only. -/
theorem bridge_cmdIndex {addr : Nat} (h : bridge addr 4 = .next cmdIndex) : addr = windowBase := by
  obtain ⟨hlo, hhi, -, halign, hw⟩ := bridge_next h
  have hidx := congrArg BitVec.toNat hw
  simp only [cmdIndex, BitVec.toNat_ofNat, BitVec.ofNat_eq_ofNat] at hidx
  unfold windowBase at hlo hhi hidx ⊢
  omega

/-! ## The invariant -/

theorem EngineError.code_le (e : EngineError) : e.code.toNat ≤ 4 := by cases e <;> decide

theorem EngineError.code_ne_zero (e : EngineError) : e.code ≠ 0 := by cases e <;> decide

theorem inv_of_sameButStorage {s t : State} (h : sameButStorage s t) (hs : s.Inv) : t.Inv := by
  rw [h]; exact hs

theorem inv_clearError {s : State} (hs : s.Inv) : (clearError s).Inv := by
  obtain ⟨hperm, -, hunkeyed⟩ := hs
  exact ⟨hperm, by simp [LatchOk], hunkeyed⟩

theorem inv_dropCommand {s : State} (herr : s.err = true) (hs : s.Inv) : (dropCommand s).Inv := by
  obtain ⟨hperm, ⟨hle, hzero, -⟩, hunkeyed⟩ := hs
  exact ⟨hperm, ⟨hle, hzero, by simp [herr]⟩, hunkeyed⟩

theorem inv_raiseError (e : EngineError) {s : State} (hs : s.Inv) : (raiseError e s).Inv := by
  obtain ⟨hperm, -, hunkeyed⟩ := hs
  exact ⟨hperm, ⟨e.code_le, iff_of_false e.code_ne_zero (by simp), by simp⟩, hunkeyed⟩

theorem inv_rc4KsaBody {s : State} (hs : s.Inv) : (rc4KsaBody s).Inv := by
  obtain ⟨-, hlatch, -⟩ := hs
  refine ⟨?_, ?_, ?_⟩
  · rw [rc4KsaBody_sbox]; exact isPermutation_ksa _ _
  · simpa only [LatchOk, rc4KsaBody_ecode, rc4KsaBody_err, rc4KsaBody_drop] using hlatch
  · simp [UnkeyedIsReset]

theorem inv_of_sameButStream {s t : State} (hkeyed : s.rc4rdy = true) (frame : sameButStream s t)
    (hperm : IsPermutation t.sbox) (hs : s.Inv) : t.Inv := by
  obtain ⟨-, hlatch, -⟩ := hs
  refine ⟨hperm, ?_, ?_⟩
  · rw [frame]; exact hlatch
  · have ht : t.rc4rdy = true := by rw [frame]; exact hkeyed
    simp [UnkeyedIsReset, ht]

theorem CommandEffect.keepsInv {v : Word} {s t : State} (h : CommandEffect v s t) (hs : s.Inv) : t.Inv := by
  cases h with
  | dropped latched => exact inv_dropCommand latched hs
  | raised e => exact inv_raiseError e hs
  | wroteData frame => exact inv_of_sameButStorage (sameButStorage_of_sameButData frame) hs
  | scheduled => exact inv_rc4KsaBody hs
  | streamed n _ _ keyed frame permutes => exact inv_of_sameButStream keyed frame (permutes hs.1) hs

theorem inv_memWrite {w : WordIndex} {v : Word} {s t : State} (h : memWrite w v s = .next t) (hs : s.Inv) : t.Inv := by
  rcases memWrite_cases h with ⟨-, hcmd⟩ | rfl | hstorage
  · exact (commandEffect_of_execute hcmd).keepsInv hs
  · exact inv_clearError hs
  · exact inv_of_sameButStorage hstorage hs

/-- Settles O39: S starts as the identity, the latch is clear, and the RC4 state is the reset one. -/
theorem resetMeetsInvariant : Obligations.ResetMeetsInvariant := by
  unfold Obligations.ResetMeetsInvariant
  exact ⟨isPermutation_identityBox, by simp [LatchOk, State.reset], fun _ => ⟨rfl, rfl, rfl⟩⟩

/-- Settles O40: a step takes an event and answers the host, which the invariant does not see; what is left is a write of
the window or reset. -/
theorem stepKeepsInvariant : Obligations.StepKeepsInvariant := by
  intro s t hs h
  rcases step_cases h with ⟨-, rfl⟩ | ⟨e, rest, -, hevent⟩
  · exact hs
  rcases hevent with ⟨w, -, rfl⟩ | ⟨w, v, u, -, hwrite, rfl⟩ | ⟨-, rfl⟩ | ⟨v, r, -, rfl⟩
  · exact hs
  · have hu : u.Inv := inv_memWrite hwrite hs
    exact hu
  · exact resetMeetsInvariant
  · exact resetMeetsInvariant

/-- Settles O38, by the list of a CMD write's effects. -/
theorem noCommandWritesOperandRegisters : Obligations.NoCommandWritesOperandRegisters :=
  fun _ _ _ h => (commandEffect_of_execute h).keepsOperands

/-- Settles O31: of a step's cases only reset and a write of CMD reach the RC4 state, and of a CMD write's effects only a
schedule and a stream. -/
theorem onlyRc4CommandsChangeRc4State : Obligations.OnlyRc4CommandsChangeRc4State := by
  intro s t h hchange
  rcases step_cases h with ⟨-, rfl⟩ | ⟨e, rest, hp, hevent⟩
  · exact absurd ⟨rfl, rfl, rfl, rfl⟩ hchange
  refine ⟨e, rest, hp, ?_⟩
  rcases hevent with ⟨w, -, rfl⟩ | ⟨w, v, u, hport, hwrite, rfl⟩ | ⟨rfl, -⟩ | ⟨v, r, rfl, -⟩
  · exact absurd ⟨rfl, rfl, rfl, rfl⟩ hchange
  · have hdiff : ¬ sameRc4 { s with pending := rest } u := hchange
    rcases memWrite_cases hwrite with ⟨rfl, hcmd⟩ | rfl | hstorage
    · refine .inr (.inr ⟨v, ?_, (commandEffect_of_execute hcmd).sameRc4_or_rc4Command.resolve_left hdiff⟩)
      rcases hport with rfl | ⟨addr, rfl, haddr⟩
      · exact .inl rfl
      · exact .inr (by rw [bridge_cmdIndex haddr])
    · exact absurd ⟨rfl, rfl, rfl, rfl⟩ hdiff
    · exact absurd (sameRc4_of_sameButStorage hstorage) hdiff
  · exact .inl rfl
  · exact .inr (.inl ⟨v, rfl⟩)

/-! ## The byte view (10_state.md R24) -/

/-- Settles O22, from the bit of two joined words and the bit of a byte write. -/
theorem byteViewIsBigEndian : Obligations.ByteViewIsBigEndian :=
  ⟨fun buf0 buf1 _ hb => getByte_append buf0 buf1 hb, fun s d => ⟨s.setData_data d, rfl⟩,
    fun buf _ x hb p _ => getLsbD_setByte buf hb x p⟩

/-! ## CMD and STATUS at their offsets (10_state.md R33, R34) -/

theorem memRead_cmd (s : State) : memRead (Spec.atOffset 0x000) s = 0 := by
  rw [memRead, regAt_cmd (by decide), readReg]

theorem memRead_status (s : State) : memRead (Spec.atOffset 0x004) s = statusWord s := by
  rw [memRead, regAt_status (by decide), readReg]

theorem memWrite_status (v : Word) (s : State) : memWrite (Spec.atOffset 0x004) v s = .next (writeStatus v s) := by
  rw [memWrite, regAt_status (by decide), writeReg]

/-- The fields of STATUS that `statusWord_fields` leaves out: DROP, RC4RDY and the reserved bits. -/
theorem statusWord_otherFields (s : State) :
    (statusWord s).getLsbD 1 = s.drop ∧ (statusWord s).getLsbD 2 = s.rc4rdy ∧
      (statusWord s).getLsbD 3 = false ∧ (statusWord s).extractLsb' 8 24 = 0 := by
  have all : ∀ (e : BitVec 4) (r d x : Bool),
      let v := (e ++ 0#1 ++ bit r ++ bit d ++ bit x : BitVec 8).setWidth 32
      v.getLsbD 1 = d ∧ v.getLsbD 2 = r ∧ v.getLsbD 3 = false ∧ v.extractLsb' 8 24 = 0 := by decide
  exact all s.ecode s.rc4rdy s.drop s.err

theorem writeStatus_of_bit0_clear {v : Word} (h : v.getLsbD 0 = false) (s : State) : writeStatus v s = s := by
  simp only [writeStatus, h, Bool.false_eq_true, if_false]

/-- Settles O16, field by field. -/
theorem statusFields : Obligations.StatusFields := by
  intro s
  obtain ⟨herr, hecode⟩ := statusWord_fields s
  obtain ⟨hdrop, hready, hzero, hhigh⟩ := statusWord_otherFields s
  rw [memRead_status]
  refine ⟨herr, hdrop, hready, hzero, hecode, hhigh, fun w hw => ?_⟩
  rw [memWrite_status, writeStatus_of_bit0_clear hw]

/-- Settles O17: CMD reads 0 in every state, so after a command too. -/
theorem cmdIsTriggerOnly : Obligations.CmdIsTriggerOnly :=
  fun s => ⟨memRead_cmd s, fun v => memWrite_cmd v s, fun _ t _ => memRead_cmd t⟩

/-- Settles O4: the event is taken, and the write of CMD is the command the word decodes to. -/
theorem stepRunsDecodedCommand : Obligations.StepRunsDecodedCommand := by
  intro s v i rest hp hd
  have hrun : memWrite (Spec.atOffset 0x000) v { s with pending := rest } = exec i { s with pending := rest } :=
    (memWrite_cmd v _).trans (execute_ok hd _)
  rw [step_event hp, perform, transact, hrun]
  rfl

/-! ## Reset values (10_state.md R36) -/

theorem memRead_rc4Ij (s : State) : memRead (Spec.atOffset 0x02C) s = ijWord s := by
  rw [memRead, regAt_rc4Ij (by decide), readReg]

theorem memRead_rc4S (s : State) {w : Nat} (hw : w < 64) :
    memRead (Spec.atOffset (0x200 + 4 * w)) s = arrayWord s.sbox (BitVec.ofNat 6 w) := by
  have hoff : byteOffset (Spec.atOffset (0x200 + 4 * w)) = 0x200 + 4 * (BitVec.ofNat 6 w).toNat := by
    simp only [byteOffset, Spec.atOffset, BitVec.toNat_ofNat]
    omega
  rw [memRead, regAt_rc4S hoff, readReg]

theorem byteIndex_ofNat {w : Nat} (hw : w < 64) (m : Nat) :
    byteIndex (BitVec.ofNat 6 w) m = BitVec.ofNat 8 (4 * w + m) := by
  rw [byteIndex, BitVec.toNat_ofNat, Nat.mod_eq_of_lt hw]

/-- Word w of the identity permutation. -/
theorem arrayWord_identityBox {w : Nat} (hw : w < 64) : arrayWord identityBox (BitVec.ofNat 6 w) =
    BitVec.ofNat 8 (4 * w) ++ BitVec.ofNat 8 (4 * w + 1) ++ BitVec.ofNat 8 (4 * w + 2) ++ BitVec.ofNat 8 (4 * w + 3) := by
  simp only [arrayWord, byteAt_identityBox, byteIndex_ofNat hw, Nat.add_zero]

/-- Settles O1: the fields by definition, S and its window by the identity permutation; the key a TEA command finds is
the zero key already. -/
theorem resetValues : Obligations.ResetValues := by
  refine ⟨rfl, rfl, rfl, rfl, rfl, rfl, rfl, rfl, rfl, fun k => Vector.getElem_replicate _, byteAt_identityBox,
    rfl, rfl, rfl, rfl, rfl, rfl, ?status, ?ij, ?box, ?tea⟩
  case status => rw [memRead_status]; decide
  case ij => rw [memRead_rc4Ij]; decide
  case box =>
    intro w hw
    rw [memRead_rc4S _ hw]
    exact arrayWord_identityBox hw
  case tea => intro i _ a b; rfl

end Sys2Proof.Machine

namespace Sys2Proof.Machine

/-! # Proofs about the window (20_memory.md)

First what a read answers at each offset, what a storage write does to every register, and what the bridge makes of an
access, each said once; then the obligations, read off these. -/

/-! ## Reads and the bridge (20_memory.md R50, R52, R56, R57) -/

/-- Settles O21: the event is taken, and a read transaction only answers the host. -/
theorem readsHaveNoSideEffect : Obligations.ReadsHaveNoSideEffect := by
  intro s w rest hp
  rw [step_event hp]
  exact transact_read w _

/-- What follows the bridge, by where the access begins and whether it is one aligned word: it goes on with the word at
the access's offset in the window, or stops. -/
theorem onNext_bridge {α : Type} (addr size : Nat) (f : WordIndex → Result α) :
    let inside := windowBase ≤ addr ∧ addr < windowBase + 4096
    let aligned := size = 4 ∧ addr % 4 = 0
    (inside → aligned → onNext (bridge addr size) f = f (Spec.atOffset (addr - windowBase))) ∧
      (inside → ¬ aligned → onNext (bridge addr size) f = .refused .bridgeSubword) ∧
      (¬ inside → onNext (bridge addr size) f = .fault .outsideWindow) := by
  refine ⟨fun hin hal => ?passed, fun hin hal => ?refused, fun hout => ?outside⟩
  case passed => rw [bridge, if_neg (by omega), if_pos hal]; rfl
  case refused => rw [bridge, if_neg (by omega), if_neg hal]; rfl
  case outside => rw [bridge, if_pos (by omega)]; rfl

/-- Settles O6: an access is performed as the bridge followed by the transaction at the word it answers. -/
theorem bridgePassesAlignedWordsOnly : Obligations.BridgePassesAlignedWordsOnly := by
  intro s addr size v rest
  refine ⟨fun hp => ?read, fun hp => ?write⟩
  case read =>
    rw [step_event hp]
    exact onNext_bridge addr size fun w => transact (.read w) { s with pending := rest }
  case write =>
    rw [step_event hp]
    exact onNext_bridge addr size fun w => transact (.write w v) { s with pending := rest }

/-! ## What each register reads (20_memory.md R52, R53) -/

theorem memRead_data0 (s : State) : memRead (Spec.atOffset 0x008) s = s.data0 := by
  rw [memRead, regAt_data0 (by decide), readReg]

theorem memRead_data1 (s : State) : memRead (Spec.atOffset 0x00C) s = s.data1 := by
  rw [memRead, regAt_data1 (by decide), readReg]

theorem memRead_pad0 (s : State) : memRead (Spec.atOffset 0x010) s = s.pad0 := by
  rw [memRead, regAt_pad0 (by decide), readReg]

theorem memRead_pad1 (s : State) : memRead (Spec.atOffset 0x014) s = s.pad1 := by
  rw [memRead, regAt_pad1 (by decide), readReg]

theorem memRead_tkey0 (s : State) : memRead (Spec.atOffset 0x018) s = s.tkey0 := by
  rw [memRead, regAt_tkey0 (by decide), readReg]

theorem memRead_tkey1 (s : State) : memRead (Spec.atOffset 0x01C) s = s.tkey1 := by
  rw [memRead, regAt_tkey1 (by decide), readReg]

theorem memRead_tkey2 (s : State) : memRead (Spec.atOffset 0x020) s = s.tkey2 := by
  rw [memRead, regAt_tkey2 (by decide), readReg]

theorem memRead_tkey3 (s : State) : memRead (Spec.atOffset 0x024) s = s.tkey3 := by
  rw [memRead, regAt_tkey3 (by decide), readReg]

theorem memRead_rc4Klen (s : State) : memRead (Spec.atOffset 0x028) s = s.klen := by
  rw [memRead, regAt_rc4Klen (by decide), readReg]

theorem memRead_rc4Key (s : State) {w : Nat} (hw : w < 64) :
    memRead (Spec.atOffset (0x100 + 4 * w)) s = arrayWord s.key (BitVec.ofNat 6 w) := by
  have hoff : byteOffset (Spec.atOffset (0x100 + 4 * w)) = 0x100 + 4 * (BitVec.ofNat 6 w).toNat := by
    simp only [byteOffset, Spec.atOffset, BitVec.toNat_ofNat]
    omega
  rw [memRead, regAt_rc4Key hoff, readReg]

/-- STATUS as a number (10_state.md R33). -/
theorem statusWord_toNat (s : State) :
    (statusWord s).toNat = 16 * s.ecode.toNat + 4 * s.rc4rdy.toNat + 2 * s.drop.toNat + s.err.toNat := by
  have all : ∀ (e : BitVec 4) (r d x : Bool),
      ((e ++ 0#1 ++ bit r ++ bit d ++ bit x : BitVec 8).setWidth 32).toNat =
        16 * e.toNat + 4 * r.toNat + 2 * d.toNat + x.toNat := by decide
  exact all s.ecode s.rc4rdy s.drop s.err

/-- RC4_IJ as a number (10_state.md R31). -/
theorem ijWord_toNat (s : State) : (ijWord s).toNat = 256 * s.j.toNat + s.i.toNat := by
  have hi := s.i.isLt
  have hj := s.j.isLt
  rw [ijWord, BitVec.toNat_setWidth, BitVec.toNat_append, ← Nat.shiftLeft_add_eq_or_of_lt hi, Nat.shiftLeft_eq]
  omega

/-- Byte m of word w of a 256-byte array, by its index in the array (10_state.md R27, R29). -/
theorem extractByte_arrayWord (a : Bytes256) {w m : Nat} (hw : w < 64) (hm : m < 4) :
    (arrayWord a (BitVec.ofNat 6 w)).extractLsb' (24 - 8 * m) 8 = byteAt a (BitVec.ofNat 8 (4 * w + m)) := by
  rw [← byteIndex_ofNat hw]
  exact wordByte_arrayWord a _ hm

/-- Settles O18, register by register. -/
theorem readsFollowRegisterMap : Obligations.ReadsFollowRegisterMap := by
  intro s
  refine ⟨memRead_cmd s, ?status, memRead_data0 s, memRead_data1 s, memRead_pad0 s, memRead_pad1 s, memRead_tkey0 s,
    memRead_tkey1 s, memRead_tkey2 s, memRead_tkey3 s, memRead_rc4Klen s, ?ij, fun w hw m hm => ⟨?key, ?box⟩⟩
  case status => rw [memRead_status, statusWord_toNat]
  case ij => rw [memRead_rc4Ij, ijWord_toNat]
  case key => rw [memRead_rc4Key s hw, extractByte_arrayWord _ hw hm]
  case box => rw [memRead_rc4S s hw, extractByte_arrayWord _ hw hm]

/-! ## Storage writes (20_memory.md R52, R53) -/

/-- The registers that keep the word written to them (R53): DATA, PAD, TKEY, RC4_KLEN and RC4_KEY. -/
def Reg.isStorage : Reg → Bool
  | .data0 | .data1 | .pad0 | .pad1 | .tkey0 | .tkey1 | .tkey2 | .tkey3 | .rc4Klen | .rc4Key _ => true
  | .cmd | .status | .rc4Ij | .rc4S _ | .reserved => false

theorem isStorage_regAt {w : WordIndex}
    (h : 0x008 ≤ byteOffset w ∧ byteOffset w ≤ 0x028 ∨ 0x100 ≤ byteOffset w ∧ byteOffset w < 0x200) :
    (regAt w).isStorage = true := by
  have hspec := regAt_spec w
  cases hr : regAt w <;> simp only [hr] at hspec
  case cmd | status | rc4Ij | rc4S | reserved => omega
  all_goals rfl

/-- A write of a storage register completes, reads back, and leaves what every other register reads. -/
theorem writeReg_storage {r : Reg} (hr : r.isStorage = true) (v : Word) (s : State) :
    ∃ t, writeReg r v s = .next t ∧ readReg r t = v ∧ (∀ q, q ≠ r → readReg q t = readReg q s) ∧
      t.pending = s.pending ∧ t.responses = s.responses := by
  cases r
  case cmd | status | rc4Ij | rc4S | reserved => cases hr
  case rc4Key x =>
    refine ⟨_, rfl, ?_, fun q hq => ?_, rfl, rfl⟩
    · simp only [readReg, arrayWord_setArrayWord, if_true]
    · cases q
      case rc4Key y =>
        have hyx : y ≠ x := fun h => hq (congrArg Reg.rc4Key h)
        simp only [readReg, arrayWord_setArrayWord, if_neg hyx]
      all_goals rfl
  all_goals
    refine ⟨_, rfl, rfl, fun q hq => ?_, rfl, rfl⟩
    cases q <;> simp only [ne_eq, reduceCtorEq, not_true_eq_false, not_false_eq_true] at hq <;> rfl

/-- Settles O19: the offsets are those of the storage registers, and two offsets never share one. -/
theorem storageWriteReadsBack : Obligations.StorageWriteReadsBack := by
  intro s w v hw
  have hr : (regAt w).isStorage = true := isStorage_regAt hw
  have hnamed : regAt w ≠ .reserved := fun h => by rw [h] at hr; cases hr
  obtain ⟨t, hwrite, hsame, hother, hpending, hresponses⟩ := writeReg_storage hr v s
  refine ⟨t, hwrite, hsame, fun u hu => hother _ fun h => hu ?_, hpending, hresponses⟩
  exact (regAt_injective h.symm hnamed).symm

/-! ## Reserved and read-only offsets (20_memory.md R54) -/

theorem exists_regAt_eq_rc4S {w : WordIndex} (h : 0x200 ≤ byteOffset w ∧ byteOffset w < 0x300) :
    ∃ x, regAt w = .rc4S x := by
  refine ⟨BitVec.ofNat 6 (w.toNat - 0x80), regAt_rc4S ?_⟩
  rw [BitVec.toNat_ofNat]
  simp only [byteOffset] at h ⊢
  omega

/-- Settles O20: each range of offsets by the register found there. -/
theorem reservedAndReadOnlyOffsets : Obligations.ReservedAndReadOnlyOffsets := by
  intro s w v
  refine ⟨fun hres => ?_, fun hro => ?_⟩
  · have hr : regAt w = .reserved := regAt_reserved (by simp only [byteOffset]; omega)
    rw [memRead, memWrite, hr]
    exact ⟨rfl, rfl⟩
  · rw [memWrite]
    rcases hro with hij | hbox
    · rw [regAt_rc4Ij hij, writeReg]
    · obtain ⟨x, hx⟩ := exists_regAt_eq_rc4S (w := w) (by simp only [byteOffset]; omega)
      rw [hx, writeReg]

end Sys2Proof.Machine

namespace Sys2Proof.Machine

/-! # Proofs about the encoding (30_encoding.md)

First each row of the opcode map, read from the word of its command, and the word a legal value is, each said once; then
the obligations. -/

/-! ## The rows of the opcode map (30_encoding.md R83, R84) -/

theorem decode_encode_rc4Prga (n : Count) : decode (encode (.rc4Prga n)) = decodeStream .rc4Prga n 0 :=
  decode_encodeFields _ _ _

theorem decode_encode_rc4Xor (n : Count) : decode (encode (.rc4Xor n)) = decodeStream .rc4Xor n 0 :=
  decode_encodeFields _ _ _

theorem decode_encode_vnXor (n k : Count) : decode (encode (.vnXor n k)) = decodeVernam n k :=
  decode_encodeFields _ _ _

theorem decodeStream_ok {n : Count} (hn : streamCountOk n = true) (f : Count → Instr) :
    decodeStream f n 0 = .ok (f n) := by
  simp [decodeStream, hn]

theorem decodeStream_error {n : Count} (hn : streamCountOk n = false) (f : Count → Instr) (k : Count) :
    decodeStream f n k = .error .countField := by
  simp [decodeStream, hn]

theorem decodeVernam_ok {n k : Count} (h : (streamCountOk n && padCountOk k) = true) :
    decodeVernam n k = .ok (.vnXor n k) := by
  obtain ⟨hn, hk⟩ := Bool.and_eq_true_iff.mp h
  simp [decodeVernam, hn, hk]

theorem decodeVernam_error {n k : Count} (h : (streamCountOk n && padCountOk k) = false) :
    ∃ e, decodeVernam n k = .error e := by
  rcases Bool.and_eq_false_iff.mp h with hn | hk
  · exact ⟨.countField, by simp [decodeVernam, hn]⟩
  · cases hn : streamCountOk n
    · exact ⟨.countField, by simp [decodeVernam, hn]⟩
    · exact ⟨.padField, by simp [decodeVernam, hn, hk]⟩

/-- The word of a command whose counts are out of range is no command (R84). -/
theorem decode_encode_of_not_wellFormed {i : Instr} (h : i.wellFormed = false) : ∃ e, decode (encode i) = .error e := by
  cases i with
  | teaEnc | teaDec | rc4Ksa => cases h
  | rc4Prga n => exact ⟨_, (decode_encode_rc4Prga n).trans (decodeStream_error h _ _)⟩
  | rc4Xor n => exact ⟨_, (decode_encode_rc4Xor n).trans (decodeStream_error h _ _)⟩
  | vnXor n k => rw [decode_encode_vnXor]; exact decodeVernam_error h

/-- Settles O7, row by row: the word's fields are the command's, and its counts pass the row's checks. -/
theorem encodeThenDecode : Obligations.EncodeThenDecode := by
  intro i h
  cases i with
  | teaEnc | teaDec | rc4Ksa => exact decode_encodeFields _ _ _
  | rc4Prga n => exact (decode_encode_rc4Prga n).trans (decodeStream_ok h _)
  | rc4Xor n => exact (decode_encode_rc4Xor n).trans (decodeStream_ok h _)
  | vnXor n k => exact (decode_encode_vnXor n k).trans (decodeVernam_ok h)

/-- A row's answer is a well-formed command whose word has the fields the row was given. -/
theorem wellFormed_and_encode_of_decodeOp {op : Byte} {n k : Count} {i : Instr} (h : decodeOp op n k = .ok i) :
    i.wellFormed = true ∧ encode i = encodeFields op n k := by
  rcases decodeOp_ok h with ⟨rfl, rfl, rfl, rfl⟩ | ⟨rfl, rfl, rfl, rfl⟩ | ⟨rfl, rfl, rfl, rfl⟩ | ⟨rfl, hn, rfl, rfl⟩ |
    ⟨rfl, hn, rfl, rfl⟩ | ⟨rfl, hn, hk, rfl⟩
  · exact ⟨rfl, rfl⟩
  · exact ⟨rfl, rfl⟩
  · exact ⟨rfl, rfl⟩
  · exact ⟨hn, rfl⟩
  · exact ⟨hn, rfl⟩
  · exact ⟨Bool.and_eq_true_iff.mpr ⟨hn, hk⟩, rfl⟩

/-- Settles O8: a word that decodes has RSV = 0, so it is made of the fields its row was given. -/
theorem decodeThenEncode : Obligations.DecodeThenEncode := by
  intro v i h
  obtain ⟨hrsv, hrow⟩ := decode_ok h
  obtain ⟨hwf, hword⟩ := wellFormed_and_encode_of_decodeOp hrow
  exact ⟨hwf, hword.trans (encodeFields_fields hrsv)⟩

/-! ## Legal words (30_encoding.md R84) -/

/-- A word is made of given fields when it has their values and RSV is zero (R81). -/
theorem encodeFields_eq_of_toNat {v : Word} {op : Byte} {n k : Count} (hrsv : v.toNat / 65536 = 0)
    (hop : v.toNat % 256 = op.toNat) (hn : v.toNat / 256 % 16 = n.toNat) (hk : v.toNat / 4096 % 16 = k.toNat) :
    encodeFields op n k = v := by
  apply BitVec.eq_of_toNat_eq
  rw [encodeFields_toNat]
  omega

/-- Every legal word is the word of a well-formed command. -/
theorem exists_encode_of_legalWord {v : Word} (h : Spec.legalWord v) : ∃ i : Instr, i.wellFormed = true ∧ encode i = v := by
  obtain ⟨hrsv, hrow⟩ := h
  have hn := (nField_toNat v).symm
  have hk := (kField_toNat v).symm
  rcases hrow with ⟨hop | hop | hop, hn0, hk0⟩ | ⟨hop | hop, hlo, hhi, hk0⟩ | ⟨hop, hlo, hhi, hk8⟩
  · exact ⟨.teaEnc, rfl, encodeFields_eq_of_toNat hrsv hop hn0 hk0⟩
  · exact ⟨.teaDec, rfl, encodeFields_eq_of_toNat hrsv hop hn0 hk0⟩
  · exact ⟨.rc4Ksa, rfl, encodeFields_eq_of_toNat hrsv hop hn0 hk0⟩
  · exact ⟨.rc4Prga (nField v), (streamCountOk_iff _).mpr (hn ▸ ⟨hlo, hhi⟩), encodeFields_eq_of_toNat hrsv hop hn hk0⟩
  · exact ⟨.rc4Xor (nField v), (streamCountOk_iff _).mpr (hn ▸ ⟨hlo, hhi⟩), encodeFields_eq_of_toNat hrsv hop hn hk0⟩
  · exact ⟨.vnXor (nField v) (kField v),
      Bool.and_eq_true_iff.mpr ⟨(streamCountOk_iff _).mpr (hn ▸ ⟨hlo, hhi⟩), (padCountOk_iff _).mpr (hk ▸ hk8)⟩,
      encodeFields_eq_of_toNat hrsv hop hn hk⟩

theorem exists_decode_iff_legalWord (v : Word) : (∃ i, decode v = .ok i) ↔ Spec.legalWord v := by
  constructor
  · rintro ⟨i, h⟩
    exact legalWord_of_decode h
  · intro h
    obtain ⟨i, hwf, rfl⟩ := exists_encode_of_legalWord h
    exact ⟨i, encodeThenDecode i hwf⟩

theorem decode_of_not_legalWord {v : Word} (h : ¬ Spec.legalWord v) : ∃ e, decode v = .error e := by
  cases hd : decode v with
  | ok i => exact absurd (legalWord_of_decode hd) h
  | error e => exact ⟨e, rfl⟩

/-- An illegal word raises IllegalCommand and does nothing else (R84, 60_exceptions.md R152). -/
theorem execute_of_not_legalWord {v : Word} (h : ¬ Spec.legalWord v) {s : State} (herr : s.err = false) :
    execute v s = .next (Spec.latched 1 s) := by
  obtain ⟨e, hd⟩ := decode_of_not_legalWord h
  exact (execute_error hd s).trans (issue_runs herr _)

/-- Settles O9: the legal words are those of the well-formed commands; every other has no command and is illegal. -/
theorem decoderAcceptsExactlyLegalWords : Obligations.DecoderAcceptsExactlyLegalWords :=
  fun v => ⟨exists_decode_iff_legalWord v, fun h _ herr => execute_of_not_legalWord h herr⟩

/-! ## Words and commands (30_encoding.md R80, R88; 60_exceptions.md R153) -/

/-- A command whose check of the counts fails does what an illegal word does. -/
theorem issue_checked_illegal {ok : Bool} (h : ok = false) (body : State → State) (s : State) :
    issue (checked ok .illegalCommand body) s = executeIllegal s := by
  subst h; rfl

theorem exec_of_not_wellFormed {i : Instr} (h : i.wellFormed = false) (s : State) : exec i s = executeIllegal s := by
  cases i with
  | teaEnc | teaDec | rc4Ksa => cases h
  | rc4Prga n => exact issue_checked_illegal h _ s
  | rc4Xor n => exact issue_checked_illegal h _ s
  | vnXor n k => exact issue_checked_illegal h _ s

/-- Settles O11: a well-formed command's word decodes to it; with a count out of range both the word and the command are
illegal. -/
theorem commandWordRunsItsMeaning : Obligations.CommandWordRunsItsMeaning := by
  intro i s
  cases hwf : i.wellFormed with
  | true => exact execute_ok (encodeThenDecode i hwf) s
  | false =>
    obtain ⟨e, hd⟩ := decode_encode_of_not_wellFormed hwf
    exact (execute_error hd s).trans (exec_of_not_wellFormed hwf s).symm

theorem assemble_of_wellFormed {i : Instr} (h : i.wellFormed = true) : assemble i = some (wrAt 0x000 (encode i)) :=
  if_pos h

/-- VN.XOR with fewer pad bytes than data bytes raises KeyTooShort (42_vernam.md R141). -/
theorem exec_vnXor_keyTooShort {n k : Count} (hwf : (Instr.vnXor n k).wellFormed = true) (hlt : k.toNat < n.toNat)
    {s : State} (herr : s.err = false) : exec (.vnXor n k) s = .next (Spec.latched 3 s) := by
  have hcounts : (streamCountOk n && padCountOk k) = true := hwf
  rw [exec, execVnXor_eq, herr, if_neg Bool.false_ne_true, if_neg (not_not_intro hcounts), if_pos hlt]
  rfl

/-- Settles O10: the example words are those of well-formed commands, the pad of 0x00004820 is too short, and the other
six words are not legal. -/
theorem encodingExamples : Obligations.EncodingExamples := by
  refine ⟨fun p hp => ?commands, fun s herr => ?tooShort, fun v hv => ?illegal⟩
  case commands =>
    obtain ⟨hwf, hword⟩ : p.1.wellFormed = true ∧ encode p.1 = p.2 := by revert p; decide
    rw [← hword]
    exact ⟨assemble_of_wellFormed hwf, encodeThenDecode p.1 hwf⟩
  case tooShort =>
    have hword : encode (.vnXor 8 4) = 0x00004820 := by decide
    rw [← hword, commandWordRunsItsMeaning]
    exact exec_vnXor_keyTooShort (by decide) (by decide) herr
  case illegal =>
    have hill : ¬ Spec.legalWord v := by revert v; simp [Spec.legalWord]
    obtain ⟨e, hd⟩ := decode_of_not_legalWord hill
    exact ⟨by rw [hd]; rfl, fun s herr => execute_of_not_legalWord hill herr⟩

end Sys2Proof.Machine

namespace Sys2Proof.Machine

/-! # Proofs about TEA (40_tea.md)

A TEA command is one round function iterated 32 times. First the value of `sum` after r rounds and the inverse of one
round, each said once; the trace of a command is read off the first, and that the two commands undo each other off the
second. -/

/-! ## The loop as an iteration (40_tea.md R102 to R104) -/

/-- A loop whose body does not use its index is an iteration. -/
theorem forUpTo_const {α : Type} (f : α → α) (n : Nat) (a : α) : forUpTo n (fun _ => f) a = f^[n] a := by
  induction n with
  | zero => rfl
  | succ n ih => rw [forUpTo_succ, ih, Function.iterate_succ_apply']

/-- What TEA.ENC carries after `r` rounds. -/
def teaEncAfter (s : State) (r : Nat) : TeaLocals :=
  (teaEncRound s.tkey0 s.tkey1 s.tkey2 s.tkey3)^[r] { v0 := s.data0, v1 := s.data1, sum := 0 }

/-- What TEA.DEC carries after `r` rounds. -/
def teaDecAfter (s : State) (r : Nat) : TeaLocals :=
  (teaDecRound s.tkey0 s.tkey1 s.tkey2 s.tkey3)^[r] { v0 := s.data0, v1 := s.data1, sum := teaSum32 }

theorem teaEncrypt_eq (s : State) : teaEncrypt s = teaEncAfter s 32 := forUpTo_const _ _ _

theorem teaDecrypt_eq (s : State) : teaDecrypt s = teaDecAfter s 32 := forUpTo_const _ _ _

theorem teaEncAfter_succ (s : State) (r : Nat) :
    teaEncAfter s (r + 1) = teaEncRound s.tkey0 s.tkey1 s.tkey2 s.tkey3 (teaEncAfter s r) :=
  Function.iterate_succ_apply' _ _ _

theorem teaDecAfter_succ (s : State) (r : Nat) :
    teaDecAfter s (r + 1) = teaDecRound s.tkey0 s.tkey1 s.tkey2 s.tkey3 (teaDecAfter s r) :=
  Function.iterate_succ_apply' _ _ _

/-- One more DELTA, modulo 2^32. -/
theorem ofNat_succ_mul_delta (r : Nat) :
    BitVec.ofNat 32 ((r + 1) * 0x9E3779B9) = BitVec.ofNat 32 (r * 0x9E3779B9) + teaDelta := by
  rw [Nat.succ_mul, BitVec.ofNat_add]; rfl

theorem teaEncAfter_sum (s : State) (r : Nat) : (teaEncAfter s r).sum = BitVec.ofNat 32 (r * 0x9E3779B9) := by
  induction r with
  | zero => rfl
  | succ r ih => rw [teaEncAfter_succ, ofNat_succ_mul_delta, ← ih]; rfl

/-- A decryption counts `sum` down, from SUM32 to 0. -/
theorem teaDecAfter_sum (s : State) {r : Nat} (hr : r ≤ 32) :
    (teaDecAfter s r).sum = BitVec.ofNat 32 ((32 - r) * 0x9E3779B9) := by
  induction r with
  | zero => rfl
  | succ r ih =>
    have hleft : 32 - r = 32 - (r + 1) + 1 := by omega
    have hstep : (teaDecAfter s (r + 1)).sum = (teaDecAfter s r).sum - teaDelta := by rw [teaDecAfter_succ]; rfl
    rw [hstep, ih (Nat.le_of_succ_le hr), hleft, ofNat_succ_mul_delta, BitVec.add_sub_cancel]

theorem encryptTrace_teaEncAfter (s : State) :
    Spec.EncryptTrace s (fun r => (teaEncAfter s r).v0) (fun r => (teaEncAfter s r).v1) := by
  refine ⟨rfl, rfl, fun r _ => ?_⟩
  dsimp only
  rw [← teaEncAfter_sum s (r + 1), teaEncAfter_succ]
  exact ⟨rfl, rfl⟩

theorem decryptTrace_teaDecAfter (s : State) :
    Spec.DecryptTrace s (fun r => (teaDecAfter s r).v0) (fun r => (teaDecAfter s r).v1) := by
  refine ⟨rfl, rfl, fun r hr => ?_⟩
  dsimp only
  rw [← teaDecAfter_sum s (Nat.le_of_lt hr), teaDecAfter_succ]
  exact ⟨rfl, rfl⟩

/-! ## The two commands undo each other (40_tea.md R105) -/

theorem leftInverse_teaDecRound (k0 k1 k2 k3 : Word) :
    Function.LeftInverse (teaDecRound k0 k1 k2 k3) (teaEncRound k0 k1 k2 k3) := by
  intro t
  simp only [teaDecRound, teaEncRound, BitVec.add_sub_cancel]

theorem rightInverse_teaDecRound (k0 k1 k2 k3 : Word) :
    Function.RightInverse (teaDecRound k0 k1 k2 k3) (teaEncRound k0 k1 k2 k3) := by
  intro t
  simp only [teaDecRound, teaEncRound, BitVec.sub_add_cancel]

/-- A decryption starts from all that the encryption of its block ended with: `sum` is SUM32 there. -/
theorem teaDecrypt_teaEncBody (s : State) :
    teaDecrypt (teaEncBody s) = { v0 := s.data0, v1 := s.data1, sum := 0 } := by
  have hstart : { v0 := (teaEncrypt s).v0, v1 := (teaEncrypt s).v1, sum := teaSum32 } = teaEncAfter s 32 := by
    have hsum : teaSum32 = (teaEncAfter s 32).sum := (teaEncAfter_sum s 32).symm
    rw [hsum, teaEncrypt_eq]
  calc teaDecrypt (teaEncBody s)
      = (teaDecRound s.tkey0 s.tkey1 s.tkey2 s.tkey3)^[32]
          { v0 := (teaEncrypt s).v0, v1 := (teaEncrypt s).v1, sum := teaSum32 } := by
        simp only [teaDecrypt_eq, teaDecAfter, teaEncBody_data0, teaEncBody_data1, teaEncBody_tkey0, teaEncBody_tkey1,
          teaEncBody_tkey2, teaEncBody_tkey3]
    _ = (teaDecRound s.tkey0 s.tkey1 s.tkey2 s.tkey3)^[32] (teaEncAfter s 32) := by rw [hstart]
    _ = { v0 := s.data0, v1 := s.data1, sum := 0 } := (leftInverse_teaDecRound _ _ _ _).iterate 32 _

/-- An encryption starts from all that the decryption of its block ended with: `sum` is 0 there. -/
theorem teaEncrypt_teaDecBody (s : State) :
    teaEncrypt (teaDecBody s) = { v0 := s.data0, v1 := s.data1, sum := teaSum32 } := by
  have hstart : { v0 := (teaDecrypt s).v0, v1 := (teaDecrypt s).v1, sum := 0 } = teaDecAfter s 32 := by
    have hsum : 0 = (teaDecAfter s 32).sum := (teaDecAfter_sum s le_rfl).symm
    rw [hsum, teaDecrypt_eq]
  calc teaEncrypt (teaDecBody s)
      = (teaEncRound s.tkey0 s.tkey1 s.tkey2 s.tkey3)^[32]
          { v0 := (teaDecrypt s).v0, v1 := (teaDecrypt s).v1, sum := 0 } := by
        simp only [teaEncrypt_eq, teaEncAfter, teaDecBody_data0, teaDecBody_data1, teaDecBody_tkey0, teaDecBody_tkey1,
          teaDecBody_tkey2, teaDecBody_tkey3]
    _ = (teaEncRound s.tkey0 s.tkey1 s.tkey2 s.tkey3)^[32] (teaDecAfter s 32) := by rw [hstart]
    _ = { v0 := s.data0, v1 := s.data1, sum := teaSum32 } := (rightInverse_teaDecRound _ _ _ _).iterate 32 _

theorem teaDecBody_teaEncBody (s : State) : teaDecBody (teaEncBody s) = s := by
  rw [teaDecBody, teaDecrypt_teaEncBody, teaEncBody]

theorem teaEncBody_teaDecBody (s : State) : teaEncBody (teaDecBody s) = s := by
  rw [teaEncBody, teaEncrypt_teaDecBody, teaDecBody]

/-! ## The commands (40_tea.md R102, R104, R106; 30_encoding.md R84) -/

theorem exec_teaEnc {s : State} (herr : s.err = false) : exec .teaEnc s = .next (teaEncBody s) := issue_runs herr _

theorem exec_teaDec {s : State} (herr : s.err = false) : exec .teaDec s = .next (teaDecBody s) := issue_runs herr _

/-- A row without counts has one legal word, its opcode `w`; every other word with that OP is illegal (R83, R84). -/
theorem execute_of_plainOpcode_ne {v w : Word} (hw : w.toNat = 0x01 ∨ w.toNat = 0x02 ∨ w.toNat = 0x10)
    (hop : v.toNat % 256 = w.toNat) (hne : v ≠ w) {s : State} (herr : s.err = false) :
    execute v s = .next (Spec.latched 1 s) := by
  have hill : ¬ Spec.legalWord v := by
    intro hlegal
    refine hne (BitVec.eq_of_toNat_eq ?_)
    simp only [Spec.legalWord] at hlegal
    omega
  exact execute_of_not_legalWord hill herr

/-- Settles O25: the 32 rounds of one command are the inverse of the other's. -/
theorem teaCommandsAreInverse : Obligations.TeaCommandsAreInverse := by
  intro s herr
  refine ⟨⟨teaEncBody s, exec_teaEnc herr, ?_⟩, ⟨teaDecBody s, exec_teaDec herr, ?_⟩⟩
  · rw [exec_teaDec ((teaEncBody_err s).trans herr), teaDecBody_teaEncBody]
  · rw [exec_teaEnc ((teaDecBody_err s).trans herr), teaEncBody_teaDecBody]

/-- TEA.ENC takes the block of `u` to that of `s` just when TEA.DEC takes it back. -/
theorem exec_teaEnc_eq_iff_exec_teaDec_eq (s u : State) (hs : s.err = false) (hu : u.err = false) :
    exec .teaEnc u = .next s ↔ exec .teaDec s = .next u := by
  rw [exec_teaEnc hu, exec_teaDec hs, Host.Outcome.next.injEq, Host.Outcome.next.injEq]
  constructor
  · rintro rfl
    exact teaDecBody_teaEncBody u
  · rintro rfl
    exact teaEncBody_teaDecBody s

/-- Two states hold the same block and the same TEA key. -/
structure SameTeaInputs (s t : State) : Prop where
  data0 : s.data0 = t.data0
  data1 : s.data1 = t.data1
  tkey0 : s.tkey0 = t.tkey0
  tkey1 : s.tkey1 = t.tkey1
  tkey2 : s.tkey2 = t.tkey2
  tkey3 : s.tkey3 = t.tkey3

theorem teaEncrypt_congr {s t : State} (h : SameTeaInputs s t) : teaEncrypt s = teaEncrypt t := by
  rw [teaEncrypt, h.data0, h.data1, h.tkey0, h.tkey1, h.tkey2, h.tkey3, teaEncrypt]

theorem teaDecrypt_congr {s t : State} (h : SameTeaInputs s t) : teaDecrypt s = teaDecrypt t := by
  rw [teaDecrypt, h.data0, h.data1, h.tkey0, h.tkey1, h.tkey2, h.tkey3, teaDecrypt]

/-- Settles O26: the rounds start from DATA and use TKEY, and the body writes DATA alone. -/
theorem teaIsStateless : Obligations.TeaIsStateless := by
  intro i hi s t hs ht hdata0 hdata1 hkey0 hkey1 hkey2 hkey3
  have hsame : SameTeaInputs s t := ⟨hdata0, hdata1, hkey0, hkey1, hkey2, hkey3⟩
  obtain rfl | rfl := List.mem_pair.mp hi
  · refine ⟨_, _, exec_teaEnc hs, exec_teaEnc ht, ?_, ?_, teaEncBody_frame s⟩
    · rw [teaEncBody_data0, teaEncBody_data0, teaEncrypt_congr hsame]
    · rw [teaEncBody_data1, teaEncBody_data1, teaEncrypt_congr hsame]
  · refine ⟨_, _, exec_teaDec hs, exec_teaDec ht, ?_, ?_, teaDecBody_frame s⟩
    · rw [teaDecBody_data0, teaDecBody_data0, teaDecrypt_congr hsame]
    · rw [teaDecBody_data1, teaDecBody_data1, teaDecrypt_congr hsame]

/-- R102's example. -/
theorem teaEncrypt_reset : teaEncrypt State.reset = { v0 := 0x41EA3A0A, v1 := 0x94BAA940, sum := teaSum32 } := by
  decide +kernel

/-- The encryption of the zero block with the zero key, whatever else the state holds (R102, R106). -/
theorem exec_teaEnc_zero {s : State} (hzero : SameTeaInputs s State.reset) (herr : s.err = false) :
    exec .teaEnc s = .next { s with data0 := 0x41EA3A0A, data1 := 0x94BAA940 } := by
  rw [exec_teaEnc herr, teaEncBody, teaEncrypt_congr hzero, teaEncrypt_reset]

/-- Settles O23, clause by clause. -/
theorem teaEncResult : Obligations.TeaEncResult := by
  refine ⟨encodeThenDecode .teaEnc rfl, fun _ _ hop hne herr => execute_of_plainOpcode_ne (.inl rfl) hop hne herr,
    fun s herr => issue_dropped herr _, ?result, ?vector⟩
  case result =>
    intro s herr
    refine ⟨_, _, encryptTrace_teaEncAfter s, ?_⟩
    rw [exec_teaEnc herr, teaEncBody, teaEncrypt_eq]
  case vector =>
    intro s herr hkey0 hkey1 hkey2 hkey3 hdata0 hdata1
    exact exec_teaEnc_zero ⟨hdata0, hdata1, hkey0, hkey1, hkey2, hkey3⟩ herr

/-- Settles O24, clause by clause; the example is that of TEA.ENC taken back. -/
theorem teaDecResult : Obligations.TeaDecResult := by
  refine ⟨encodeThenDecode .teaDec rfl,
    fun _ _ hop hne herr => execute_of_plainOpcode_ne (.inr (.inl rfl)) hop hne herr,
    fun s herr => issue_dropped herr _, ?result, exec_teaEnc_eq_iff_exec_teaDec_eq, ?vector⟩
  case result =>
    intro s herr
    refine ⟨_, _, decryptTrace_teaDecAfter s, ?_⟩
    rw [exec_teaDec herr, teaDecBody, teaDecrypt_eq]
  case vector =>
    intro s herr hkey0 hkey1 hkey2 hkey3 hdata0 hdata1
    have hzero : SameTeaInputs { s with data0 := 0, data1 := 0 } State.reset :=
      ⟨rfl, rfl, hkey0, hkey1, hkey2, hkey3⟩
    have henc : exec .teaEnc { s with data0 := 0, data1 := 0 } = .next s := by
      rw [exec_teaEnc_zero hzero herr, ← hdata0, ← hdata1]
    exact (exec_teaEnc_eq_iff_exec_teaDec_eq s { s with data0 := 0, data1 := 0 } herr herr).mp henc

end Sys2Proof.Machine

namespace Sys2Proof.Machine

/-! # Proofs about RC4 (41_rc4.md)

First the key schedule after each round, and the engine after each keystream step with the byte that step returns, each
said once; then the loop that RC4.PRGA and RC4.XOR share, as that many keystream steps with DATA rewritten byte by byte.
The commands, and the streams cut into commands, are read off these. -/

/-! ## The key schedule (41_rc4.md R120, R122, R127) -/

/-- What the key schedule carries before iteration `n`. -/
def ksaAfter (key : Bytes256) (klen n : Nat) : KsaLocals :=
  forUpTo n (ksaRound key klen) { box := identityBox, j := 0 }

theorem ksa_eq (key : Bytes256) (klen : Nat) : ksa key klen = (ksaAfter key klen 256).box := by
  rw [ksa, ksaAfter]

theorem byteAt_swapBytes_eq_swapped (a : Bytes256) (x y : Byte) :
    byteAt (swapBytes a x y) = Spec.swapped (byteAt a) x y :=
  funext fun k => byteAt_swapBytes a x y k

/-- The schedule's trace, for any key that has the key buffer's bytes at the indices the iterations read. -/
theorem scheduleTrace_ksaAfter {key : Bytes256} {klen : Nat} {k : Nat → Byte}
    (hk : ∀ i < 256, k (i % klen) = byteAt key (BitVec.ofNat 8 (i % klen))) :
    Spec.ScheduleTrace k klen (fun n => byteAt (ksaAfter key klen n).box) (fun n => (ksaAfter key klen n).j) := by
  refine ⟨byteAt_identityBox, rfl, fun i hi => ?_⟩
  dsimp only
  rw [hk i hi]
  exact ⟨rfl, byteAt_swapBytes_eq_swapped _ _ _⟩

/-- Two lengths that read the same key bytes schedule the same permutation. -/
theorem ksa_congr_klen (key : Bytes256) {m n : Nat} (h : ∀ i < 256, i % m = i % n) : ksa key m = ksa key n := by
  have hrounds : ksaAfter key m 256 = ksaAfter key n 256 :=
    forUpTo_related (fun _ t u => t = u) (ksaRound key m) (ksaRound key n) 256
      (fun i hi t u htu => by rw [htu, ksaRound, h i hi, ksaRound]) _ _ rfl
  rw [ksa_eq, ksa_eq, hrounds]

theorem exec_rc4Ksa {s : State} (herr : s.err = false) (hklen : s.klen ≠ 0) :
    exec .rc4Ksa s = .next (rc4KsaBody s) := by
  rw [exec, execRc4Ksa_eq, herr, if_neg Bool.false_ne_true, if_neg hklen]

theorem exec_rc4Ksa_emptyKey {s : State} (herr : s.err = false) (hklen : s.klen = 0) :
    exec .rc4Ksa s = .next (Spec.latched 2 s) := by
  rw [exec, execRc4Ksa_eq, herr, if_neg Bool.false_ne_true, if_pos hklen]
  rfl

/-- S after a schedule is where the schedule's trace ends. -/
theorem byteAt_rc4KsaBody_sbox (s : State) (x : Byte) :
    byteAt (rc4KsaBody s).sbox x = byteAt (ksaAfter s.key s.klen.toNat 256).box x := by
  rw [rc4KsaBody_sbox, ksa_eq]

/-- Settles O27: the schedule's iterations are the trace over the key buffer. -/
theorem rc4KsaResult : Obligations.Rc4KsaResult := by
  refine ⟨encodeThenDecode .rc4Ksa rfl, fun s herr => ⟨exec_rc4Ksa_emptyKey herr, fun hklen => ?_⟩⟩
  refine ⟨rc4KsaBody s, _, _, scheduleTrace_ksaAfter fun i _ => rfl, exec_rc4Ksa herr hklen,
    byteAt_rc4KsaBody_sbox s, ?_⟩
  simp only [rc4KsaBody]

/-- Settles O34: an iteration index below 256 is its own remainder by a length of 256 or more, so all iterations read
the buffer, where the whole key has the same bytes. -/
theorem longKeysScheduleExactly : Obligations.LongKeysScheduleExactly := by
  intro k s herr hlong hklen hkey
  have hmod : ∀ i < 256, i % s.klen.toNat = i := fun i hi => Nat.mod_eq_of_lt (by omega)
  have hne : s.klen ≠ 0 := by
    intro h
    simp [h] at hklen
    omega
  have htrace := scheduleTrace_ksaAfter (key := s.key) (klen := s.klen.toNat) (k := fun x => k.getD x 0) fun i hi => by
    rw [hmod i hi, hkey i hi]
  have hbox : ksa s.key 256 = ksa s.key s.klen.toNat :=
    ksa_congr_klen s.key fun i hi => by rw [hmod i hi, Nat.mod_eq_of_lt hi]
  rw [← hklen]
  refine ⟨rc4KsaBody s, rc4KsaBody { s with klen := 256 }, _, _, htrace, exec_rc4Ksa herr hne,
    byteAt_rc4KsaBody_sbox s, exec_rc4Ksa herr (by simp), ?_⟩
  rw [rc4KsaBody_sbox, rc4KsaBody_sbox]
  exact hbox

/-! ## The keystream (41_rc4.md R121) -/

theorem swapBytes_self (a : Bytes256) (x : Byte) : swapBytes a x x = a := by
  refine bytes256_ext fun k => ?_
  rw [byteAt_swapBytes]
  split
  · rw [‹k = x›]
  · rfl

/-- Settles O28: the swap by its bytes; with I = J it exchanges a byte with itself. -/
theorem keystreamStep : Obligations.KeystreamStep := by
  intro s
  refine ⟨rfl, rfl, fun x => byteAt_swapBytes _ _ _ x, rfl, rfl, fun hij => ?_⟩
  have hbox : (rc4Advance s).sbox = s.sbox := by
    have hswap : (rc4Advance s).sbox = swapBytes s.sbox (rc4Advance s).i (rc4Advance s).j := rfl
    rw [hswap, hij, swapBytes_self]
  refine ⟨hbox, ?_⟩
  rw [rc4Output, hbox, ← hij]
  exact congrArg (byteAt s.sbox) BitVec.two_mul.symm

/-- The engine after `n` keystream steps. -/
def rc4After (s : State) (n : Nat) : State := rc4Advance^[n] s

/-- Byte `b` of the keystream that begins in `s`. -/
def keystream (s : State) (b : Nat) : Byte := rc4Output (rc4After s (b + 1))

theorem rc4After_succ (s : State) (n : Nat) : rc4After s (n + 1) = rc4Advance (rc4After s n) :=
  Function.iterate_succ_apply' _ _ _

theorem rc4After_add (s : State) (m n : Nat) : rc4After s (m + n) = rc4After (rc4After s m) n := by
  rw [rc4After, Nat.add_comm, Function.iterate_add_apply]; rfl

theorem keystream_rc4After (s : State) (m : Nat) : keystream (rc4After s m) = fun b => keystream s (m + b) := by
  funext b
  rw [keystream, ← rc4After_add]; rfl

/-- Keystream steps neither read nor write DATA. -/
theorem rc4After_setData (s : State) (d : Block) (n : Nat) : rc4After (s.setData d) n = (rc4After s n).setData d := by
  induction n with
  | zero => rfl
  | succ n ih => rw [rc4After_succ, ih, rc4After_succ]; rfl

theorem rc4After_zero_setData (s : State) : (rc4After s 0).setData s.data = s := s.setData_self

theorem keystream_setData (s : State) (d : Block) : keystream (s.setData d) = keystream s := by
  funext b
  rw [keystream, rc4After_setData]; rfl

theorem rc4After_frame (s : State) (n : Nat) :
    rc4After s n = { s with sbox := (rc4After s n).sbox, i := (rc4After s n).i, j := (rc4After s n).j } := by
  induction n with
  | zero => rfl
  | succ n ih => rw [rc4After_succ, ih]; rfl

@[simp] theorem rc4After_err (s : State) (n : Nat) : (rc4After s n).err = s.err := by rw [rc4After_frame]
@[simp] theorem rc4After_rc4rdy (s : State) (n : Nat) : (rc4After s n).rc4rdy = s.rc4rdy := by rw [rc4After_frame]
@[simp] theorem rc4After_klen (s : State) (n : Nat) : (rc4After s n).klen = s.klen := by rw [rc4After_frame]

theorem keystreamTrace_rc4After (s : State) (n : Nat) :
    Spec.KeystreamTrace s n (fun b => (rc4After s b).i) (fun b => (rc4After s b).j)
      (fun b => byteAt (rc4After s b).sbox) (keystream s) := by
  refine ⟨rfl, rfl, fun x => rfl, fun b _ => ?_⟩
  simp only [keystream, rc4After_succ s b]
  exact ⟨rfl, rfl, byteAt_swapBytes_eq_swapped _ _ _, rfl⟩

/-! ## The loop of the stream commands (41_rc4.md R123, R124) -/

/-- RC4.PRGA's and RC4.XOR's loop body: DATA's byte `b` is combined with a keystream byte by `f`. -/
def combineByte (f : Byte → Byte → Byte) (b : Nat) (s : State) : State :=
  let t := rc4Advance s
  t.setData (setByte t.data b (f (getByte t.data b) (rc4Output t)))

/-- A block with its bytes 0 to `n` - 1 combined with those of the stream `ks` by `f`. -/
def combineBlock (f : Byte → Byte → Byte) (ks : Nat → Byte) (n : Nat) (d : Block) : Block :=
  forUpTo n (fun b d => setByte d b (f (getByte d b) (ks b))) d

theorem getByte_combineBlock (f : Byte → Byte → Byte) (ks : Nat → Byte) {n : Nat} (hn : n ≤ 8) (d : Block) {b : Nat}
    (hb : b < 8) : getByte (combineBlock f ks n d) b = if b < n then f (getByte d b) (ks b) else getByte d b := by
  induction n generalizing b with
  | zero => rfl
  | succ n ih =>
    have hold : getByte (combineBlock f ks n d) n = getByte d n := by
      rw [ih (by omega) (by omega), if_neg (Nat.lt_irrefl n)]
    have hstep : combineBlock f ks (n + 1) d = setByte (combineBlock f ks n d) n (f (getByte d n) (ks n)) := by
      rw [← hold]; rfl
    rw [hstep, getByte_setByte _ (by omega) hb, ih (by omega) hb]
    rcases Nat.lt_trichotomy b n with hlt | rfl | hgt
    · rw [if_neg (by omega), if_pos hlt, if_pos (by omega)]
    · rw [if_pos rfl, if_pos (by omega)]
    · rw [if_neg (by omega), if_neg (by omega), if_neg (by omega)]

/-- What a stream command makes of the state: `n` keystream steps, and DATA combined with their bytes. -/
def combined (f : Byte → Byte → Byte) (n : Nat) (s : State) : State :=
  (rc4After s n).setData (combineBlock f (keystream s) n s.data)

theorem combined_data (f : Byte → Byte → Byte) (n : Nat) (s : State) :
    (combined f n s).data = combineBlock f (keystream s) n s.data := State.setData_data _ _

theorem forUpTo_combineByte (f : Byte → Byte → Byte) (n : Nat) (s : State) :
    forUpTo n (combineByte f) s = combined f n s := by
  induction n with
  | zero => exact (State.setData_self s).symm
  | succ n ih =>
    have hsteps : rc4Advance (combined f n s) =
        (rc4After s (n + 1)).setData (combineBlock f (keystream s) n s.data) := by rw [rc4After_succ]; rfl
    rw [forUpTo_succ, ih, combineByte, hsteps, State.setData_data]
    rfl

theorem combined_frame (f : Byte → Byte → Byte) (n : Nat) (s : State) : sameButStream s (combined f n s) := by
  unfold sameButStream combined
  rw [rc4After_frame]
  rfl

/-- A byte of DATA, in the statements' words (10_state.md R24). -/
theorem dataByte_eq_getByte (s : State) {b : Nat} (hb : b < 8) : Spec.dataByte s b = getByte s.data b :=
  (getByte_append _ _ hb).symm

theorem dataByte_combined (f : Byte → Byte → Byte) {n : Nat} (hn : n ≤ 8) (s : State) {b : Nat} (hb : b < 8) :
    Spec.dataByte (combined f n s) b =
      if b < n then f (Spec.dataByte s b) (keystream s b) else Spec.dataByte s b := by
  rw [dataByte_eq_getByte _ hb, dataByte_eq_getByte _ hb, combined_data, getByte_combineBlock f _ hn _ hb]

/-! ## The commands (41_rc4.md R123, R124; 30_encoding.md R81, R83) -/

/-- RC4.PRGA and RC4.XOR, by what they make of a byte of DATA and a keystream byte. -/
def streamCommand (f : Byte → Byte → Byte) (n : Count) (s : State) : Result State :=
  issue (checked (streamCountOk n) .illegalCommand fun t =>
    checked t.rc4rdy .rc4NotKeyed (forUpTo n.toNat (combineByte f)) t) s

theorem exec_rc4Prga (n : Count) (s : State) : exec (.rc4Prga n) s = streamCommand (fun _ k => k) n s := rfl

theorem exec_rc4Xor (n : Count) (s : State) : exec (.rc4Xor n) s = streamCommand (· ^^^ ·) n s := rfl

section
variable (f : Byte → Byte → Byte) {n : Count} {s : State} (herr : s.err = false)
include herr

theorem streamCommand_illegalCount (hn : ¬ (1 ≤ n.toNat ∧ n.toNat ≤ 8)) :
    streamCommand f n s = .next (Spec.latched 1 s) := by
  have hcount : streamCountOk n = false := Bool.eq_false_iff.mpr (mt (streamCountOk_iff n).mp hn)
  rw [streamCommand, issue_runs herr, checked_fails hcount]
  rfl

theorem streamCommand_notKeyed (hn : 1 ≤ n.toNat ∧ n.toNat ≤ 8) (hkeyed : s.rc4rdy = false) :
    streamCommand f n s = .next (Spec.latched 4 s) := by
  rw [streamCommand, issue_runs herr, checked_ok ((streamCountOk_iff n).mpr hn), checked_fails hkeyed]
  rfl

theorem streamCommand_keyed (hn : 1 ≤ n.toNat ∧ n.toNat ≤ 8) (hkeyed : s.rc4rdy = true) :
    streamCommand f n s = .next (combined f n.toNat s) := by
  rw [streamCommand, issue_runs herr, checked_ok ((streamCountOk_iff n).mpr hn), checked_ok hkeyed,
    forUpTo_combineByte]

/-- A stream command on a keyed engine, in the statements' words: the next N bytes of the keystream's trace are combined
with DATA's first N bytes, and nothing else but I, J and S changes. -/
theorem streamCommand_result (hn : 1 ≤ n.toNat ∧ n.toNat ≤ 8) (hkeyed : s.rc4rdy = true) :
    ∃ t i j box out, Spec.KeystreamTrace s n.toNat i j box out ∧
      streamCommand f n s = .next t ∧ t.i = i n.toNat ∧ t.j = j n.toNat ∧
      (∀ x, byteAt t.sbox x = box n.toNat x) ∧
      (∀ b < 8, Spec.dataByte t b = if b < n.toNat then f (Spec.dataByte s b) (out b) else Spec.dataByte s b) ∧
      sameButStream s t :=
  ⟨_, _, _, _, _, keystreamTrace_rc4After s n.toNat, streamCommand_keyed f herr hn hkeyed, rfl, rfl, fun _ => rfl,
    fun _ hb => dataByte_combined f hn.2 s hb, combined_frame f _ s⟩

end

/-- XORed into the zero block, keystream bytes stand as they are (R124). -/
theorem combineBlock_xor_zero (ks : Nat → Byte) {n : Nat} (hn : n ≤ 8) :
    combineBlock (· ^^^ ·) ks n 0 = combineBlock (fun _ k => k) ks n 0 := by
  have hzero : ∀ b, getByte 0 b = 0#8 := fun b => BitVec.eq_of_getLsbD_eq (by simp [getByte])
  refine block_ext fun b hb => ?_
  rw [getByte_combineBlock _ _ hn _ hb, getByte_combineBlock _ _ hn _ hb, hzero, BitVec.zero_xor]

theorem streamCommand_xor_of_data_eq_zero {n : Count} {s : State} (herr : s.err = false)
    (hn : 1 ≤ n.toNat ∧ n.toNat ≤ 8) (hdata : s.data = 0) :
    streamCommand (· ^^^ ·) n s = streamCommand (fun _ k => k) n s := by
  cases hkeyed : s.rc4rdy with
  | false => rw [streamCommand_notKeyed _ herr hn hkeyed, streamCommand_notKeyed _ herr hn hkeyed]
  | true =>
    rw [streamCommand_keyed _ herr hn hkeyed, streamCommand_keyed _ herr hn hkeyed, combined, combined, hdata,
      combineBlock_xor_zero _ hn.2]

/-- The decoder sees a row's opcode and count in the word's number, with K = 0 (R81). -/
theorem decode_ofNat (op : Byte) (n : Count) :
    decode (BitVec.ofNat 32 (op.toNat + 256 * n.toNat)) = decodeOp op n 0 := by
  have hword : BitVec.ofNat 32 (op.toNat + 256 * n.toNat) = encodeFields op n 0 := by
    have hop := op.isLt
    have hn := n.isLt
    apply BitVec.eq_of_toNat_eq
    rw [encodeFields_toNat, BitVec.toNat_ofNat, Nat.mod_eq_of_lt (by omega)]
    rfl
  rw [hword, decode_encodeFields]

/-- Settles O29: the word by its fields, the command as the stream command that keeps the keystream byte. -/
theorem rc4PrgaResult : Obligations.Rc4PrgaResult := by
  refine ⟨fun s n herr hn => streamCommand_illegalCount (fun _ k => k) herr hn, fun s n herr hlo hhi => ?_⟩
  have hn : 1 ≤ n.toNat ∧ n.toNat ≤ 8 := ⟨hlo, hhi⟩
  exact ⟨(decode_ofNat 0x11 n).trans (decodeStream_ok ((streamCountOk_iff n).mpr hn) .rc4Prga),
    streamCommand_notKeyed (fun _ k => k) herr hn, streamCommand_result (fun _ k => k) herr hn⟩

/-- Settles O30: as O29, with the keystream byte XORed in; on zero data that is the keystream byte. -/
theorem rc4XorResult : Obligations.Rc4XorResult := by
  refine ⟨fun s n herr hn => streamCommand_illegalCount (· ^^^ ·) herr hn, fun s n herr hlo hhi => ?_⟩
  have hn : 1 ≤ n.toNat ∧ n.toNat ≤ 8 := ⟨hlo, hhi⟩
  refine ⟨(decode_ofNat 0x12 n).trans (decodeStream_ok ((streamCountOk_iff n).mpr hn) .rc4Xor),
    streamCommand_notKeyed (· ^^^ ·) herr hn, streamCommand_result (· ^^^ ·) herr hn, fun h0 h1 => ?_⟩
  have hdata : s.data = 0 := by rw [State.data, h0, h1]; rfl
  exact streamCommand_xor_of_data_eq_zero herr hn hdata

/-! ## Streams cut into commands (41_rc4.md R125, R126) -/

theorem map_keystream_range_add (s : State) (m n : Nat) : (List.range (m + n)).map (keystream s) =
    (List.range m).map (keystream s) ++ (List.range n).map (keystream (rc4After s m)) := by
  simp only [List.range_add, List.map_append, List.map_map, Function.comp_def, keystream_rc4After]

/-- RC4.PRGA commands are one pass: its bytes, and its steps with some DATA. -/
theorem prgaChunks_eq (ns : List Count) (s : State) (herr : s.err = false) (hkeyed : s.rc4rdy = true)
    (hns : ∀ n ∈ ns, 1 ≤ n.toNat ∧ n.toNat ≤ 8) :
    let total := (ns.map BitVec.toNat).sum
    ∃ d, Spec.prgaChunks ns s = .next ((List.range total).map (keystream s), (rc4After s total).setData d) := by
  induction ns generalizing s with
  | nil => exact ⟨s.data, congrArg (fun u => Host.Outcome.next ([], u)) (rc4After_zero_setData s).symm⟩
  | cons n ns ih =>
    obtain ⟨hn, hns⟩ := List.forall_mem_cons.mp hns
    obtain ⟨d, hd⟩ := ih (combined (fun _ k => k) n.toNat s) (by simp [combined, herr]) (by simp [combined, hkeyed]) hns
    have hbytes : (List.range n.toNat).map (Spec.dataByte (combined (fun _ k => k) n.toNat s)) =
        (List.range n.toNat).map (keystream s) := by
      refine List.map_congr_left fun b hb => ?_
      have hb := List.mem_range.mp hb
      rw [dataByte_combined _ hn.2 s (by omega), if_pos hb]
    refine ⟨d, ?_⟩
    simp only [Spec.prgaChunks, exec_rc4Prga, streamCommand_keyed _ herr hn hkeyed, onNext_next, hd, hbytes]
    simp only [combined, keystream_setData, rc4After_setData, State.setData_setData, List.map_cons, List.sum_cons,
      map_keystream_range_add, rc4After_add]

/-- Settles O32, by the one pass the commands are. -/
theorem chunkingKeepsKeystream : Obligations.ChunkingKeepsKeystream := by
  intro ns s herr hkeyed hns total
  obtain ⟨d, hd⟩ := prgaChunks_eq ns s herr hkeyed hns
  exact ⟨_, _, _, _, _, keystreamTrace_rc4After s total, hd, rfl, rfl, fun _ => rfl⟩

/-- A chunk with the bytes of a stream XORed into its first N bytes. -/
def xorChunk (ks : Nat → Byte) (c : Count × Word × Word) : Count × Word × Word :=
  let d := combineBlock (· ^^^ ·) ks c.1.toNat (c.2.1 ++ c.2.2)
  (c.1, d.extractLsb' 32 32, d.extractLsb' 0 32)

/-- Chunks XORed with one stream, each going on where the one before ended. -/
def xorPass : (Nat → Byte) → List (Count × Word × Word) → List (Count × Word × Word)
  | _, [] => []
  | ks, c :: cs => xorChunk ks c :: xorPass (fun b => ks (c.1.toNat + b)) cs

theorem map_fst_xorPass (ks : Nat → Byte) (cs : List (Count × Word × Word)) :
    (xorPass ks cs).map Prod.fst = cs.map Prod.fst := by
  induction cs generalizing ks with
  | nil => rfl
  | cons c cs ih => rw [xorPass, List.map_cons, ih]; rfl

/-- The two words of a block, joined. -/
theorem append_extractLsb' (d : Block) : (d.extractLsb' 32 32 ++ d.extractLsb' 0 32 : Block) = d :=
  State.setData_data State.reset d

theorem setData_append (s : State) (a b : Word) : s.setData (a ++ b) = { s with data0 := a, data1 := b } :=
  State.setData_self { s with data0 := a, data1 := b }

theorem extractLsb'_append_high (a b : Word) : (a ++ b : Block).extractLsb' 32 32 = a :=
  congrArg State.data0 (setData_append State.reset a b)

theorem extractLsb'_append_low (a b : Word) : (a ++ b : Block).extractLsb' 0 32 = b :=
  congrArg State.data1 (setData_append State.reset a b)

theorem combineBlock_xor_xor (ks : Nat → Byte) {n : Nat} (hn : n ≤ 8) (d : Block) :
    combineBlock (· ^^^ ·) ks n (combineBlock (· ^^^ ·) ks n d) = d := by
  refine block_ext fun b hb => ?_
  rw [getByte_combineBlock _ _ hn _ hb, getByte_combineBlock _ _ hn _ hb]
  split
  · rw [BitVec.xor_assoc, BitVec.xor_self, BitVec.xor_zero]
  · rfl

theorem xorChunk_xorChunk (ks : Nat → Byte) {c : Count × Word × Word} (hc : c.1.toNat ≤ 8) :
    xorChunk ks (xorChunk ks c) = c := by
  simp only [xorChunk, append_extractLsb', combineBlock_xor_xor ks hc, extractLsb'_append_high, extractLsb'_append_low]

theorem xorPass_xorPass (ks : Nat → Byte) (cs : List (Count × Word × Word)) (hcs : ∀ c ∈ cs, c.1.toNat ≤ 8) :
    xorPass ks (xorPass ks cs) = cs := by
  induction cs generalizing ks with
  | nil => rfl
  | cons c cs ih =>
    obtain ⟨hc, hcs⟩ := List.forall_mem_cons.mp hcs
    rw [xorPass, xorPass, xorChunk_xorChunk ks hc]
    exact congrArg (c :: ·) (ih _ hcs)

theorem chunkBytes_eq {c : Count × Word × Word} (hc : c.1.toNat ≤ 8) :
    Spec.chunkBytes c = (List.range c.1.toNat).map (getByte (c.2.1 ++ c.2.2)) :=
  List.map_congr_left fun b hb => (getByte_append _ _ (by have := List.mem_range.mp hb; omega)).symm

theorem chunkBytes_xorChunk (ks : Nat → Byte) {c : Count × Word × Word} (hc : c.1.toNat ≤ 8) :
    Spec.chunkBytes (xorChunk ks c) =
      List.zipWith (· ^^^ ·) (Spec.chunkBytes c) ((List.range c.1.toNat).map ks) := by
  rw [chunkBytes_eq hc, chunkBytes_eq (c := xorChunk ks c) hc, List.zipWith_map, List.zipWith_self]
  refine List.map_congr_left fun b hb => ?_
  have hb : b < c.1.toNat := List.mem_range.mp hb
  simp only [xorChunk, append_extractLsb']
  rw [getByte_combineBlock _ _ hc _ (by omega), if_pos hb]

theorem flatMap_chunkBytes_xorPass (ks : Nat → Byte) (cs : List (Count × Word × Word))
    (hcs : ∀ c ∈ cs, c.1.toNat ≤ 8) : (xorPass ks cs).flatMap Spec.chunkBytes =
      List.zipWith (· ^^^ ·) (cs.flatMap Spec.chunkBytes)
        ((List.range (cs.map fun c => c.1.toNat).sum).map ks) := by
  induction cs generalizing ks with
  | nil => rfl
  | cons c cs ih =>
    obtain ⟨hc, hcs⟩ := List.forall_mem_cons.mp hcs
    have hlen : (Spec.chunkBytes c).length = ((List.range c.1.toNat).map ks).length := by simp [Spec.chunkBytes]
    rw [xorPass, List.flatMap_cons, List.flatMap_cons, chunkBytes_xorChunk ks hc, ih _ hcs, List.map_cons,
      List.sum_cons, List.range_add, List.map_append, List.map_map, List.zipWith_append hlen]
    rfl

/-- RC4.XOR commands over chunks are one pass over them, and its steps with some DATA. -/
theorem xorChunks_eq (ds : List (Count × Word × Word)) (s : State) (herr : s.err = false) (hkeyed : s.rc4rdy = true)
    (hds : ∀ d ∈ ds, 1 ≤ d.1.toNat ∧ d.1.toNat ≤ 8) :
    let total := (ds.map fun d => d.1.toNat).sum
    ∃ d, Spec.xorChunks ds s = .next (xorPass (keystream s) ds, (rc4After s total).setData d) := by
  induction ds generalizing s with
  | nil => exact ⟨s.data, congrArg (fun u => Host.Outcome.next ([], u)) (rc4After_zero_setData s).symm⟩
  | cons c ds ih =>
    obtain ⟨n, a, b⟩ := c
    obtain ⟨hn, hds⟩ := List.forall_mem_cons.mp hds
    have hrun := streamCommand_keyed (s := s.setData (a ++ b)) (· ^^^ ·) herr hn hkeyed
    obtain ⟨d, hd⟩ := ih (combined (· ^^^ ·) n.toNat (s.setData (a ++ b))) (by simp [combined, herr])
      (by simp [combined, hkeyed]) hds
    refine ⟨d, ?_⟩
    rw [Spec.xorChunks, ← setData_append, exec_rc4Xor, hrun, onNext_next, hd, onNext_next]
    simp only [combined, keystream_setData, rc4After_setData, State.setData_setData, State.setData_data, List.map_cons,
      List.sum_cons, rc4After_add, xorPass, xorChunk, keystream_rc4After, State.setData_data0, State.setData_data1]

/-- Settles O41, by the one pass the commands are. -/
theorem chunkingKeepsXorStream : Obligations.ChunkingKeepsXorStream := by
  intro ds s herr hkeyed hds total
  obtain ⟨d, hd⟩ := xorChunks_eq ds s herr hkeyed hds
  exact ⟨_, _, _, _, _, _, keystreamTrace_rc4After s total, hd,
    flatMap_chunkBytes_xorPass _ _ fun c hc => (hds c hc).2, rfl, rfl, fun _ => rfl⟩

/-- A second schedule after a stream starts the same keystream. -/
theorem rc4KsaBody_after_stream (s : State) (n : Nat) (d : Block) :
    rc4KsaBody ((rc4After (rc4KsaBody s) n).setData d) = (rc4KsaBody s).setData d := by
  rw [rc4After_frame]
  simp only [rc4KsaBody, State.setData]

/-- Settles O33: both schedules start one keystream, and XORing it in twice gives every chunk back. -/
theorem rc4IsSymmetric : Obligations.Rc4IsSymmetric := by
  intro ds s herr hklen hds
  obtain ⟨d, henc⟩ := xorChunks_eq ds (rc4KsaBody s) (by simp [herr]) (by simp) hds
  have hcs : ∀ c ∈ xorPass (keystream (rc4KsaBody s)) ds, 1 ≤ c.1.toNat ∧ c.1.toNat ≤ 8 := by
    rw [← List.forall_mem_map (f := Prod.fst) (P := fun n : Count => 1 ≤ n.toNat ∧ n.toNat ≤ 8), map_fst_xorPass,
      List.forall_mem_map]
    exact hds
  obtain ⟨e, hdec⟩ := xorChunks_eq _ ((rc4KsaBody s).setData d) (by simp [herr]) (by simp) hcs
  rw [keystream_setData, xorPass_xorPass _ _ fun c hc => (hds c hc).2] at hdec
  refine ⟨_, _, _, _, _, exec_rc4Ksa herr hklen, henc, ?_, hdec⟩
  rw [exec_rc4Ksa (by simp [herr]) (by simpa using hklen), rc4KsaBody_after_stream]

end Sys2Proof.Machine

namespace Sys2Proof.Machine

/-! # Proofs about VN.XOR (42_vernam.md)

First the command's outcomes and its loop as one write of DATA, each said once; the obligations about one command are
read off them. Then the bytes of a loaded chunk and of the DATA read back, one chunk of the host's stream, and the
chunks' list. -/

/-! ## The word and the outcomes (42_vernam.md R141) -/

/-- The row's word as a number (30_encoding.md R81, R83). -/
theorem ofNat_eq_encode_vnXor (n k : Count) :
    BitVec.ofNat 32 (0x20 + 256 * n.toNat + 4096 * k.toNat) = encode (.vnXor n k) := by
  have hn := n.isLt
  have hk := k.isLt
  apply BitVec.eq_of_toNat_eq
  rw [encode, encodeFields_toNat, BitVec.toNat_ofNat, Nat.mod_eq_of_lt (by omega)]
  rfl

theorem vnXor_wellFormed_iff (n k : Count) :
    (Instr.vnXor n k).wellFormed = true ↔ 1 ≤ n.toNat ∧ n.toNat ≤ 8 ∧ k.toNat ≤ 8 := by
  rw [Instr.wellFormed, Bool.and_eq_true, streamCountOk_iff, padCountOk_iff, and_assoc]

/-- What is no command raises IllegalCommand while ERR = 0 (60_exceptions.md R153). -/
theorem executeIllegal_latched {s : State} (herr : s.err = false) : executeIllegal s = .next (Spec.latched 1 s) :=
  issue_runs herr _

/-- What VN.XOR makes of the state: DATA with the first `n` pad bytes XORed in. -/
def padded (n : Nat) (s : State) : State := s.setData (combineBlock (· ^^^ ·) (getByte s.pad) n s.data)

theorem forUpTo_vnXorByte (n : Nat) (s : State) : forUpTo n vnXorByte s = padded n s := by
  induction n with
  | zero => exact (State.setData_self s).symm
  | succ n ih =>
    rw [forUpTo_succ, ih, vnXorByte, padded, State.setData_data, State.setData_pad, State.setData_setData]
    rfl

/-- A byte of PAD, in the statements' words (10_state.md R24). -/
theorem padByte_eq_getByte (s : State) {b : Nat} (hb : b < 8) : Spec.padByte s b = getByte s.pad b :=
  (getByte_append _ _ hb).symm

theorem dataByte_padded {n : Nat} (hn : n ≤ 8) (s : State) {b : Nat} (hb : b < 8) :
    Spec.dataByte (padded n s) b =
      if b < n then Spec.dataByte s b ^^^ Spec.padByte s b else Spec.dataByte s b := by
  rw [dataByte_eq_getByte _ hb, dataByte_eq_getByte _ hb, padByte_eq_getByte _ hb, padded, State.setData_data,
    getByte_combineBlock _ _ hn _ hb]

/-- With enough pad bytes the command runs its loop. -/
theorem exec_vnXor {n k : Count} (hlo : 1 ≤ n.toNat) (hnk : n.toNat ≤ k.toNat) (hhi : k.toNat ≤ 8) {s : State}
    (herr : s.err = false) : exec (.vnXor n k) s = .next (padded n.toNat s) := by
  have hcounts : (streamCountOk n && padCountOk k) = true :=
    (vnXor_wellFormed_iff n k).mpr ⟨hlo, hnk.trans hhi, hhi⟩
  rw [exec, execVnXor_eq, herr, if_neg Bool.false_ne_true, if_neg (not_not_intro hcounts), if_neg (by omega),
    forUpTo_vnXorByte]

/-- Settles O35: the word by its fields, the two errors by the counts, the result as one write of DATA. -/
theorem vnXorResult : Obligations.VnXorResult := by
  refine ⟨fun s n k herr hcounts => ?illegal, fun s n k herr hlo hhi hk => ?legal⟩
  case illegal =>
    have hwf : (Instr.vnXor n k).wellFormed = false := Bool.eq_false_iff.mpr (mt (vnXor_wellFormed_iff n k).mp hcounts)
    rw [exec_of_not_wellFormed hwf, executeIllegal_latched herr]
  case legal =>
    have hwf : (Instr.vnXor n k).wellFormed = true := (vnXor_wellFormed_iff n k).mpr ⟨hlo, hhi, hk⟩
    refine ⟨?_, fun hlt => exec_vnXor_keyTooShort hwf hlt herr, fun hnk =>
      ⟨_, exec_vnXor hlo hnk hk herr, fun _ hb => dataByte_padded hhi s hb, rfl⟩⟩
    rw [ofNat_eq_encode_vnXor, encodeThenDecode _ hwf]

/-- PAD is not written, so a second pass XORs the same bytes out again. -/
theorem padded_padded {n : Nat} (hn : n ≤ 8) (s : State) : padded n (padded n s) = s := by
  simp only [padded, State.setData_pad, State.setData_data, State.setData_setData, combineBlock_xor_xor _ hn,
    State.setData_self]

/-- Settles O36: both commands run, and the second takes back what the first did. -/
theorem vnXorIsSelfInverse : Obligations.VnXorIsSelfInverse := by
  intro s n k herr hlo hnk hhi
  refine ⟨_, exec_vnXor hlo hnk hhi herr, ?_⟩
  have hagain := exec_vnXor hlo hnk hhi (s := padded n.toNat s) herr
  rwa [padded_padded (hnk.trans hhi)] at hagain

/-! ## The bytes of a loaded chunk and of DATA read back (60_exceptions.md R172) -/

theorem wordByte_packWord (bs : List Byte) {m : Nat} (hm : m < 4) : wordByte (packWord bs) m = bs.getD m 0 := by
  apply BitVec.eq_of_getLsbD_eq
  intro q hq
  simp only [wordByte, packWord, BitVec.getLsbD_extractLsb', hq, decide_true, Bool.true_and, getLsbD_bytes]
  obtain rfl | rfl | rfl | rfl : m = 0 ∨ m = 1 ∨ m = 2 ∨ m = 3 := by omega
  · rw [if_neg (by omega), if_neg (by omega), if_neg (by omega), Nat.add_sub_cancel_left]
  · rw [if_neg (by omega), if_neg (by omega), if_pos (by omega), Nat.add_sub_cancel_left]
  · rw [if_neg (by omega), if_pos (by omega), Nat.add_sub_cancel_left]
  · rw [if_pos (by omega), Nat.zero_add]

/-- Eight bytes packed into two words are in the byte view's order. -/
theorem getByte_packWords (bs : List Byte) {b : Nat} (hb : b < 8) :
    getByte (packWord bs ++ packWord (bs.drop 4)) b = bs.getD b 0 := by
  rw [getByte_append _ _ hb]
  split
  · next hlt => exact wordByte_packWord bs hlt
  · next hge =>
    refine (wordByte_packWord (bs.drop 4) (by omega : b - 4 < 4)).trans ?_
    rw [List.getD_eq_getElem?_getD, List.getElem?_drop, (by omega : 4 + (b - 4) = b), List.getD_eq_getElem?_getD]

/-- The bytes of DATA are those of the statements' byte view (10_state.md R24). -/
theorem dataBytes_eq (s : State) : dataBytes s = (List.range 8).map (Spec.dataByte s) := rfl

/-! ## One chunk (60_exceptions.md R173) -/

/-- The writes that load a chunk and its key slice put their bytes into DATA and PAD. -/
theorem transactAll_loadChunk (input key : List Byte) (s : State) :
    ∃ u, transactAll (loadBlockBytes input ++ loadPadBytes key) s = .next u ∧ u.err = s.err ∧
      (∀ b < 8, Spec.dataByte u b = input.getD b 0) ∧ ∀ b < 8, Spec.padByte u b = key.getD b 0 :=
  ⟨_, rfl, rfl, fun _ hb => (dataByte_eq_getByte _ hb).trans (getByte_packWords input hb),
    fun _ hb => (padByte_eq_getByte _ hb).trans (getByte_packWords key hb)⟩

/-- A script's write of a command word runs the command. -/
theorem transact_command {i : Instr} {s t : State} (h : exec i s = .next t) :
    transact (wrAt 0x000 (encode i)) s = .next (respond .done t) :=
  transact_write ((memWrite_cmd _ s).trans ((commandWordRunsItsMeaning i s).trans h))

/-- A chunk answers the first bytes of the DATA its command leaves. -/
theorem runChunk_eq {load : List Transaction} {i : Instr} {s u t : State} (hload : transactAll load s = .next u)
    (hrun : exec i u = .next t) (n : Nat) :
    ∃ rs, runChunk load (encode i) n s = .next ((dataBytes t).take n, { t with responses := rs }) := by
  obtain ⟨rs, hread⟩ := readData_eq (respond .done t)
  refine ⟨rs, ?_⟩
  rw [runChunk, transactAll_append, hload, onNext_next, transactAll, transact_command hrun, onNext_next, transactAll,
    onNext_next, hread]
  rfl

/-- The first bytes of DATA, one by one. -/
theorem take_dataBytes (s : State) {n : Nat} (hn : n ≤ 8) :
    (dataBytes s).take n = (List.range n).map (Spec.dataByte s) := by
  rw [dataBytes_eq, ← List.map_take, List.take_range, Nat.min_eq_left hn]

/-- Two lists of one length combined place by place. -/
theorem zipWith_eq_map_range (f : Byte → Byte → Byte) {xs ys : List Byte} (h : ys.length = xs.length) :
    List.zipWith f xs ys = (List.range xs.length).map fun b => f (xs.getD b 0) (ys.getD b 0) := by
  refine List.ext_getElem (by simp [h]) fun b _ hb => ?_
  have hx : b < xs.length := by simpa using hb
  have hy : b < ys.length := h ▸ hx
  simp [hx, hy]

/-- One chunk of the stream: its bytes XORed with those of the matching key slice. -/
theorem runChunk_vnXor {input key : List Byte} {n : Count} (hn : n.toNat = input.length) (hlo : 1 ≤ input.length)
    (hhi : input.length ≤ 8) (hkey : key.length = input.length) {s : State} (herr : s.err = false) :
    ∃ t, runChunk (loadBlockBytes input ++ loadPadBytes key) (encode (.vnXor n n)) input.length s =
      .next (List.zipWith (· ^^^ ·) input key, t) ∧ t.err = false := by
  obtain ⟨u, hload, huerr, hdata, hpad⟩ := transactAll_loadChunk input key s
  have hrun : exec (.vnXor n n) u = .next (padded n.toNat u) :=
    exec_vnXor (by omega) le_rfl (by omega) (huerr.trans herr)
  obtain ⟨rs, hchunk⟩ := runChunk_eq hload hrun input.length
  have hbytes : (dataBytes (padded n.toNat u)).take input.length = List.zipWith (· ^^^ ·) input key := by
    rw [take_dataBytes _ hhi, zipWith_eq_map_range _ hkey]
    refine List.map_congr_left fun b hb => ?_
    have hb : b < input.length := List.mem_range.mp hb
    rw [dataByte_padded (by omega) u (by omega), if_pos (by omega), hdata b (by omega), hpad b (by omega)]
  rw [hbytes] at hchunk
  exact ⟨_, hchunk, huerr.trans herr⟩

/-! ## The stream (42_vernam.md R140, 60_exceptions.md R173) -/

/-- A chunk fits the engine, and its key slice has its length. -/
def ChunkPair (p : List Byte × List Byte) : Prop :=
  1 ≤ p.1.length ∧ p.1.length ≤ 8 ∧ p.2.length = p.1.length

theorem vernamChunks_eq (ps : List (List Byte × List Byte)) (hps : ∀ p ∈ ps, ChunkPair p) (s : State)
    (herr : s.err = false) :
    ∃ t, vernamChunks ps s = .next (ps.flatMap fun p => List.zipWith (· ^^^ ·) p.1 p.2, t) ∧ t.err = false := by
  induction ps generalizing s with
  | nil => exact ⟨s, rfl, herr⟩
  | cons p ps ih =>
    obtain ⟨⟨hlo, hhi, hkey⟩, hps⟩ := List.forall_mem_cons.mp hps
    have hn : (BitVec.ofNat 4 p.1.length).toNat = p.1.length := by
      rw [BitVec.toNat_ofNat, Nat.mod_eq_of_lt (by omega)]
    obtain ⟨u, hchunk, huerr⟩ := runChunk_vnXor hn hlo hhi hkey herr
    obtain ⟨t, hrest, hterr⟩ := ih hps u huerr
    exact ⟨t, by simp only [vernamChunks, hchunk, onNext_next, hrest, List.flatMap_cons], hterr⟩

theorem chunksOf_succ {xs : List Byte} (h : xs ≠ []) (size fuel : Nat) :
    chunksOf size (fuel + 1) xs = xs.take size :: chunksOf size fuel (xs.drop size) :=
  if_neg (mt List.isEmpty_iff.mp h)

/-- Two streams of one length are cut at the same places. -/
theorem chunkPair_of_mem_zip_chunksOf {fuel : Nat} {xs ys : List Byte} (hlen : ys.length = xs.length)
    {p : List Byte × List Byte} (hp : p ∈ (chunksOf 8 fuel xs).zip (chunksOf 8 fuel ys)) : ChunkPair p := by
  induction fuel generalizing xs ys with
  | zero => cases hp
  | succ fuel ih =>
    rcases Nat.eq_zero_or_pos xs.length with hzero | hpos
    · rw [List.eq_nil_of_length_eq_zero hzero] at hp
      cases hp
    · rw [chunksOf_succ (List.ne_nil_of_length_pos hpos), chunksOf_succ (List.ne_nil_of_length_pos (hlen ▸ hpos)),
        List.zip_cons_cons, List.mem_cons] at hp
      rcases hp with rfl | hp
      · simp only [ChunkPair, List.length_take]
        omega
      · exact ih (by simp [hlen]) hp

/-- Combined chunk by chunk or at once, two streams of one length give the same bytes. -/
theorem flatMap_zip_chunksOf (f : Byte → Byte → Byte) {fuel : Nat} {xs ys : List Byte} (hlen : ys.length = xs.length)
    (hfuel : xs.length ≤ fuel) :
    ((chunksOf 8 fuel xs).zip (chunksOf 8 fuel ys)).flatMap (fun p => List.zipWith f p.1 p.2) =
      List.zipWith f xs ys := by
  induction fuel generalizing xs ys with
  | zero => rw [List.eq_nil_of_length_eq_zero (Nat.le_zero.mp hfuel)]; rfl
  | succ fuel ih =>
    rcases Nat.eq_zero_or_pos xs.length with hzero | hpos
    · rw [List.eq_nil_of_length_eq_zero hzero]; rfl
    · have hrest := ih (xs := xs.drop 8) (ys := ys.drop 8) (by simp [hlen]) (by rw [List.length_drop]; omega)
      rw [chunksOf_succ (List.ne_nil_of_length_pos hpos), chunksOf_succ (List.ne_nil_of_length_pos (hlen ▸ hpos)),
        List.zip_cons_cons, List.flatMap_cons, hrest, ← List.zipWith_append (by simp [hlen]), List.take_append_drop,
        List.take_append_drop]

/-- Streams of one length, cut alike, answer the XOR of the whole streams. -/
theorem vernamChunks_zip_chunks8 {input key : List Byte} (hlen : key.length = input.length) {s : State}
    (herr : s.err = false) : ∃ t, vernamChunks ((chunks8 input).zip (chunks8 key)) s =
      .next (List.zipWith (· ^^^ ·) input key, t) ∧ t.err = false := by
  rw [chunks8, chunks8, hlen, ← flatMap_zip_chunksOf (· ^^^ ·) hlen le_rfl]
  exact vernamChunks_eq _ (fun _ => chunkPair_of_mem_zip_chunksOf hlen) s herr

/-- Settles O37: the length check is up front; with enough key, input and the key's part are cut alike, and no error is
latched when STATUS is read. -/
theorem vernamStreamContract : Obligations.VernamStreamContract := by
  refine fun input key s herr => ⟨fun hshort => if_pos hshort, fun hlen => ?_⟩
  have hpart : List.zipWith (· ^^^ ·) input (key.take input.length) = List.zipWith (· ^^^ ·) input key := by
    rw [List.zipWith_eq_zipWith_take_min (l₂ := key), Nat.min_eq_left hlen, List.take_length]
  obtain ⟨u, hrun, huerr⟩ := vernamChunks_zip_chunks8 (List.length_take_of_le hlen) herr
  rw [hpart] at hrun
  obtain ⟨r, hfinish⟩ := finish_eq (List.zipWith (· ^^^ ·) input key) u
  rw [huerr, if_neg Bool.false_ne_true] at hfinish
  refine ⟨respond r u, ?_⟩
  simp only [vernamStream, if_neg (Nat.not_lt.mpr hlen), hrun, onNext_next, hfinish]

end Sys2Proof.Machine

namespace Sys2Proof.Machine

/-! # Proofs about the errors (60_exceptions.md)

First the drop, the latch a command leaves, and the one error each well-formed command can raise, each said once; the
obligations about the engine's errors are read off these. Then the host's RC4 procedure on a latched engine, and the TEA
key registers after a load of the derived key. -/

/-! ## The drop (60_exceptions.md R155) -/

theorem exec_of_latched (i : Instr) {s : State} (herr : s.err = true) : exec i s = .next (dropCommand s) := by
  cases i <;> exact issue_dropped herr _

theorem execute_of_latched (v : Word) {s : State} (herr : s.err = true) : execute v s = .next (dropCommand s) := by
  rcases execute_cases v s with ⟨i, -, h⟩ | ⟨-, h⟩
  · exact h.trans (exec_of_latched i herr)
  · exact h.trans (issue_dropped herr _)

/-- Settles O12: the command of the word, or its illegality, is dropped alike. -/
theorem commandDroppedWhileLatched : Obligations.CommandDroppedWhileLatched :=
  fun _ herr => ⟨fun v => execute_of_latched v herr, fun i => exec_of_latched i herr⟩

/-! ## The latch after a command (60_exceptions.md R152) -/

/-- ERR, DROP and ECODE are as in `s`. -/
def sameLatch (s t : State) : Prop := t.err = s.err ∧ t.drop = s.drop ∧ t.ecode = s.ecode

theorem sameLatch_of_sameButData {s t : State} (h : sameButData s t) : sameLatch s t := by
  rw [h]; exact ⟨rfl, rfl, rfl⟩

theorem sameLatch_of_sameButStream {s t : State} (h : sameButStream s t) : sameLatch s t := by
  rw [h]; exact ⟨rfl, rfl, rfl⟩

theorem sameLatch_rc4KsaBody (s : State) : sameLatch s (rc4KsaBody s) :=
  ⟨rc4KsaBody_err s, rc4KsaBody_drop s, rc4KsaBody_ecode s⟩

/-- While ERR = 0, a CMD write raises one error or leaves the latch. -/
theorem CommandEffect.raised_or_sameLatch {v : Word} {s t : State} (h : CommandEffect v s t) (herr : s.err = false) :
    (∃ e, t = raiseError e s) ∨ sameLatch s t := by
  cases h with
  | dropped latched => exact absurd (latched.symm.trans herr) (by decide)
  | raised e => exact .inl ⟨e, rfl⟩
  | wroteData frame => exact .inr (sameLatch_of_sameButData frame)
  | scheduled => exact .inr (sameLatch_rc4KsaBody s)
  | streamed n _ _ _ frame => exact .inr (sameLatch_of_sameButStream frame)

/-- The codes of R151. -/
theorem EngineError.code_mem (e : EngineError) : e.code ∈ [(1 : BitVec 4), 2, 3, 4] := by cases e <;> decide

/-- Settles O14: ERR = 1 is not the latch left, so an error was raised, which writes ERR and ECODE only. -/
theorem errorsArePrecise : Obligations.ErrorsArePrecise := by
  intro v s t herr h hraised
  rcases (commandEffect_of_execute h).raised_or_sameLatch herr with ⟨e, rfl⟩ | ⟨hsame, -, -⟩
  · exact ⟨rfl, e.code_mem⟩
  · exact absurd (hraised.symm.trans (hsame.trans herr)) (by decide)

/-! ## The error of each command (60_exceptions.md R153, R154) -/

/-- The op-specific error that applies to a command in state `s`: a command has one at most (R153). -/
def opError (i : Instr) (s : State) : Option EngineError :=
  match i with
  | .teaEnc | .teaDec => none
  | .rc4Ksa => if s.klen = 0 then some .emptyKey else none
  | .rc4Prga _ | .rc4Xor _ => if s.rc4rdy = false then some .rc4NotKeyed else none
  | .vnXor n k => if k.toNat < n.toNat then some .keyTooShort else none

/-- The state a command ends in that would run to `t`, if the error in question does not come first. -/
def raiseOr (e : Option EngineError) (s t : State) : State := e.elim t (raiseError · s)

theorem streamCommand_raiseOr (f : Byte → Byte → Byte) {n : Count} (hn : streamCountOk n = true) {s : State}
    (herr : s.err = false) : ∃ t, sameLatch s t ∧
      streamCommand f n s = .next (raiseOr (if s.rc4rdy = false then some .rc4NotKeyed else none) s t) := by
  have hcount := (streamCountOk_iff n).mp hn
  refine ⟨combined f n.toNat s, sameLatch_of_sameButStream (combined_frame f _ s), ?_⟩
  cases hkeyed : s.rc4rdy with
  | false => exact streamCommand_notKeyed f herr hcount hkeyed
  | true => exact streamCommand_keyed f herr hcount hkeyed

/-- A well-formed command raises its op-specific error where that applies, and else leaves the latch. -/
theorem exec_of_wellFormed {i : Instr} (hwf : i.wellFormed = true) {s : State} (herr : s.err = false) :
    ∃ t, sameLatch s t ∧ exec i s = .next (raiseOr (opError i s) s t) := by
  cases i with
  | teaEnc => exact ⟨_, sameLatch_of_sameButData (teaEncBody_frame s), exec_teaEnc herr⟩
  | teaDec => exact ⟨_, sameLatch_of_sameButData (teaDecBody_frame s), exec_teaDec herr⟩
  | rc4Ksa =>
    refine ⟨_, sameLatch_rc4KsaBody s, ?_⟩
    rw [opError]
    split
    · next hklen => exact exec_rc4Ksa_emptyKey herr hklen
    · next hklen => exact exec_rc4Ksa herr hklen
  | rc4Prga n => exact streamCommand_raiseOr (fun _ k => k) hwf herr
  | rc4Xor n => exact streamCommand_raiseOr (· ^^^ ·) hwf herr
  | vnXor n k =>
    obtain ⟨hlo, -, hk⟩ := (vnXor_wellFormed_iff n k).mp hwf
    refine ⟨padded n.toNat s, ⟨rfl, rfl, rfl⟩, ?_⟩
    rw [opError]
    split
    · next hlt => exact exec_vnXor_keyTooShort hwf hlt herr
    · next hle => exact exec_vnXor hlo (Nat.not_lt.mp hle) hk herr

/-- Which error it is, by the fields of the command word (R81). -/
theorem opError_of_decode {v : Word} {i : Instr} (hd : decode v = .ok i) (s : State) :
    let op := v.toNat % 256
    let n := v.toNat / 256 % 16
    let k := v.toNat / 4096 % 16
    opError i s =
      if op = 0x10 ∧ s.klen = 0 then some .emptyKey
      else if (op = 0x11 ∨ op = 0x12) ∧ s.rc4rdy = false then some .rc4NotKeyed
      else if op = 0x20 ∧ k < n then some .keyTooShort
      else none := by
  rw [← opField_toNat, ← nField_toNat, ← kField_toNat]
  rcases decodeOp_ok (decode_ok hd).2 with ⟨hop, -, -, rfl⟩ | ⟨hop, -, -, rfl⟩ | ⟨hop, -, -, rfl⟩ | ⟨hop, -, -, rfl⟩ |
    ⟨hop, -, -, rfl⟩ | ⟨hop, -, -, rfl⟩ <;> simp [hop, opError]

/-- Settles O13, in the order of the conditions: ERR, then the word's legality, then the op-specific error. -/
theorem errorConditionsInPriorityOrder : Obligations.ErrorConditionsInPriorityOrder := by
  intro v s op n k
  cases herr : s.err with
  | true => exact ⟨dropCommand s, execute_of_latched v herr, by simp [dropCommand, herr]⟩
  | false =>
    by_cases hlegal : Spec.legalWord v
    case neg => exact ⟨Spec.latched 1 s, execute_of_not_legalWord hlegal herr, by simp [hlegal]⟩
    case pos =>
      obtain ⟨i, hd⟩ := (exists_decode_iff_legalWord v).mpr hlegal
      obtain ⟨t, ⟨hterr, htdrop, htecode⟩, hrun⟩ := exec_of_wellFormed (decodeThenEncode v i hd).1 herr
      rw [opError_of_decode hd] at hrun
      refine ⟨_, (execute_ok hd s).trans hrun, by simp, fun _ h => absurd hlegal h, fun _ _ hop hklen => ?emptyKey,
        fun _ _ hop hkeyed => ?notKeyed, fun _ _ hop hlt => ?tooShort, fun _ _ h10 h11 h20 => ?success⟩
      case emptyKey => rw [if_pos ⟨hop, hklen⟩]; rfl
      case notKeyed => rw [if_neg (by omega), if_pos ⟨hop, hkeyed⟩]; rfl
      case tooShort => rw [if_neg (by omega), if_neg (by omega), if_pos ⟨hop, hlt⟩]; rfl
      case success =>
        rw [if_neg h10, if_neg h11, if_neg h20]
        exact ⟨hterr.trans herr, htdrop, htecode⟩

/-! ## The end of the error state (60_exceptions.md R157) -/

theorem clearError_eq_self {s : State} (hlatch : LatchOk s) (herr : s.err = false) : clearError s = s := by
  obtain ⟨-, hecode, hdrop⟩ := hlatch
  have hecode : s.ecode = 0 := hecode.mpr herr
  have hdrop : s.drop = false := hdrop herr
  cases s
  subst herr hdrop hecode
  rfl

/-- Settles O15: with bit 0 set the write clears the latch, which has nothing to clear while ERR = 0. -/
theorem statusWriteClearsLatch : Obligations.StatusWriteClearsLatch := by
  intro s v hbit
  have hclear : memWrite (Spec.atOffset 0x004) v s = .next (clearError s) := by
    rw [memWrite_status, writeStatus, if_pos hbit]
  exact ⟨hclear, fun hlatch herr => by rw [hclear, clearError_eq_self hlatch herr]⟩

/-! ## The host's report of the empty key (60_exceptions.md R150, R174; 90_conflicts.md C1) -/

/-- Loading a chunk leaves the latch. -/
theorem transactAll_loadBlockBytes (input : List Byte) (s : State) :
    ∃ u, transactAll (loadBlockBytes input) s = .next u ∧ u.err = s.err ∧ u.ecode = s.ecode :=
  ⟨_, rfl, rfl, rfl⟩

/-- A chunk on a latched engine: its command is dropped, and ERR and ECODE stay. -/
theorem runChunk_rc4Xor_of_latched (input : List Byte) (n : Count) {s : State} (herr : s.err = true) :
    ∃ bs t, runChunk (loadBlockBytes input) (encode (.rc4Xor n)) input.length s = .next (bs, t) ∧
      t.err = true ∧ t.ecode = s.ecode := by
  obtain ⟨u, hload, huerr, huecode⟩ := transactAll_loadBlockBytes input s
  have hlatched : u.err = true := huerr.trans herr
  obtain ⟨rs, hchunk⟩ := runChunk_eq hload (exec_of_latched (.rc4Xor n) hlatched) input.length
  exact ⟨_, _, hchunk, hlatched, huecode⟩

theorem rc4Chunks_of_latched (inputs : List (List Byte)) {s : State} (herr : s.err = true) :
    ∃ out t, rc4Chunks inputs s = .next (out, t) ∧ t.err = true ∧ t.ecode = s.ecode := by
  induction inputs generalizing s with
  | nil => exact ⟨[], s, rfl, herr, rfl⟩
  | cons input rest ih =>
    obtain ⟨bs, u, hchunk, huerr, huecode⟩ := runChunk_rc4Xor_of_latched input (BitVec.ofNat 4 input.length) herr
    obtain ⟨out, t, hrest, hterr, htecode⟩ := ih huerr
    exact ⟨bs ++ out, t, by simp only [rc4Chunks, hchunk, onNext_next, hrest], hterr, htecode.trans huecode⟩

/-- The setup with the empty key writes RC4_KLEN = 0 and no key word, so the schedule raises EmptyKey. -/
theorem transactAll_emptyKeySetup {s : State} (herr : s.err = false) :
    ∃ u, transactAll (ldRc4Key 0#32 (keyWords []) ++ [wrAt 0x000 (encode .rc4Ksa)]) s = .next u ∧
      u.err = true ∧ u.ecode = 2 := by
  obtain ⟨u, hload, huerr, huklen⟩ : ∃ u, transactAll (ldRc4Key 0#32 (keyWords [])) s = .next u ∧
    u.err = s.err ∧ u.klen = 0 := ⟨_, rfl, rfl, rfl⟩
  have hksa := exec_rc4Ksa_emptyKey (huerr.trans herr) huklen
  refine ⟨respond .done (Spec.latched 2 u), ?_, rfl, rfl⟩
  rw [transactAll_append, hload, onNext_next, transactAll, transact_command hksa, onNext_next, transactAll]

/-- Settles O42: the error of the setup outlasts the chunks, so the final read of STATUS finds it. -/
theorem emptyKeyReportedAsInvalidArgument : Obligations.EmptyKeyReportedAsInvalidArgument := by
  intro input s herr
  obtain ⟨u, hsetup, huerr, huecode⟩ := transactAll_emptyKeySetup herr
  obtain ⟨out, t, hchunks, hterr, htecode⟩ := rc4Chunks_of_latched (chunks8 input) huerr
  obtain ⟨r, hfinish⟩ := finish_eq out t
  rw [hterr, if_pos rfl, htecode, huecode, engineReport_emptyKey] at hfinish
  have hshort : ¬ 2 ^ 32 ≤ 0 := by decide
  refine ⟨respond r t, ?_, hterr, htecode.trans huecode⟩
  simp only [rc4Stream, List.length_nil, if_neg hshort, hsetup, onNext_next, hchunks, hfinish]

/-! ## The derived key (60_exceptions.md R172, R178) -/

/-- Word n of the TEA key after its load is made of the key's bytes from 4n on. -/
theorem transactAll_loadTeaKey (k : List Byte) (s : State) : ∃ t, transactAll (loadTeaKey k) s = .next t ∧
    ∀ n < 4, memRead (Spec.atOffset (0x018 + 4 * n)) t = packWord (k.drop (4 * n)) := by
  refine ⟨_, rfl, fun n hn => ?_⟩
  obtain rfl | rfl | rfl | rfl : n = 0 ∨ n = 1 ∨ n = 2 ∨ n = 3 := by omega
  · exact memRead_tkey0 _
  · exact memRead_tkey1 _
  · exact memRead_tkey2 _
  · exact memRead_tkey3 _

/-- Settles O43: the key is the first 16 bytes of the hash by definition; a packed word has its four bytes in order. -/
theorem derivedKeyIsHashPrefix : Obligations.DerivedKeyIsHashPrefix := by
  intro p s
  obtain ⟨t, hload, hwords⟩ := transactAll_loadTeaKey (deriveKey p) s
  refine ⟨deriveKey_length p, fun n hn => List.getElem?_take_of_lt hn, t, hload, fun n hn m hm => ?_⟩
  rw [hwords n hn]
  refine (wordByte_packWord _ hm).trans ?_
  rw [List.getD_eq_getElem?_getD, List.getElem?_drop, List.getD_eq_getElem?_getD]

end Sys2Proof.Machine

namespace Sys2Proof.Machine

/-! # Proofs about reset and the completion of events (70_reset_and_hazards.md)

Reset is `resetEngine` with the event taken. That an event completes and that a step takes it from the host's list are
two lemmas, the second read off what a step can do. -/

/-! ## Reset (70_reset_and_hazards.md R190, R191) -/

/-- Settles O2: the event is taken, and reset sees nothing else of the state but the host's side. -/
theorem resetEventRestoresEveryRegister : Obligations.ResetEventRestoresEveryRegister := by
  intro s rest hp
  rw [step_event hp, perform]
  rfl

/-- Settles O3: the cut write is a reset and a response, and its word is not looked at. -/
theorem resetDuringCommandLeavesResetState : Obligations.ResetDuringCommandLeavesResetState := by
  intro s v rest hp
  refine ⟨Config.resetAbortResponse s.position, ?_⟩
  rw [step_event hp, perform]
  rfl

/-! ## Completion (70_reset_and_hazards.md R193, R198) -/

/-- A write of the window reaches the engine only, not the host's coming events. -/
theorem memWrite_keepsPending {w : WordIndex} {v : Word} {s t : State} (h : memWrite w v s = .next t) :
    t.pending = s.pending := by
  rcases memWrite_cases h with ⟨-, hcmd⟩ | rfl | hstorage
  · obtain ⟨-, -, -, -, -, -, -, -, hpending, -⟩ := (commandEffect_of_execute hcmd).keepsOperands
    exact hpending
  · exact clearError_pending s
  · rw [hstorage]

/-- A step that answers takes the host's next event, through the bridge or not. -/
theorem step_takesEvent {s t : State} {e : HostEvent} {rest : List HostEvent} (hp : s.pending = e :: rest)
    (h : step s = .next t) : t.pending = rest := by
  rcases step_cases h with ⟨hidle, -⟩ | ⟨e', rest', hp', hevent⟩
  · cases hp.symm.trans hidle
  cases hp.symm.trans hp'
  rcases hevent with ⟨w, -, rfl⟩ | ⟨w, v, u, -, hwrite, rfl⟩ | ⟨-, rfl⟩ | ⟨v, r, -, rfl⟩
  · rfl
  · exact memWrite_keepsPending hwrite
  · rfl
  · rfl

/-- Only an access through the bridge can stop the model. -/
theorem perform_completes {e : HostEvent} (he : Spec.throughBridge e = false) (s : State) :
    ∃ t, perform e s = .next t := by
  cases e with
  | bus tr => exact transact_completes tr s
  | cpuRead | cpuWrite => cases he
  | reset => exact ⟨_, rfl⟩
  | resetDuringCommand v => exact ⟨_, rfl⟩

/-- Settles O5: with no event the step is idle; an event off the bridge completes, and a step that answers takes it. -/
theorem everyTransactionCompletes : Obligations.EveryTransactionCompletes := by
  refine ⟨fun s hidle => step_idle hidle, fun s e rest hp he => ?_⟩
  obtain ⟨t, hrun⟩ := perform_completes he { s with pending := rest }
  have hstep : step s = .next t := (step_event hp).trans hrun
  exact ⟨t, hstep, step_takesEvent hp hstep⟩

end Sys2Proof.Machine
